-- ==== Sys2Proof/Word.lean ====
section
/-! DEFINITION. The words of the block: command words, pixel bytes, samples, colours and real patterns
(`spec/00_scope.md` R16, `spec/10_state.md` R26, R28, R46, `spec/30_encoding.md` R107). -/

namespace Sys2Proof

/-- A command or response word (R16, R100): 32 bits, bit 31 most significant. -/
abbrev Word := BitVec 32

/-- A pixel value or palette index, the spec's `u8` (R16). -/
abbrev Byte := BitVec 8

/-- An audio sample, the spec's `s16` (R16, R46); its value is the two's complement one. -/
abbrev Sample := BitVec 16

/-- A `real` (R13): the interchange pattern (R107) of a value of the configured format. A binary32
pattern stands in the low 32 bits. -/
abbrev FReal := BitVec 64

/-- A palette entry: three 8-bit channels (R28). -/
structure RGB where
  r : Byte
  g : Byte
  b : Byte
  deriving DecidableEq, Repr

/-- The colour (0, 0, 0), the reset value of every palette entry (R62). -/
def RGB.black : RGB := ⟨0, 0, 0⟩

end Sys2Proof
end

