-- ==== Sys2Proof/Config.lean ====
section
/-! DEFINITION. The configuration record of `spec/00_scope.md` R9 and the free values of the model: opaque
constants, which nothing in Lean can evaluate (R14, R206, R267; notes/assumptions/2, 5, 6, 7, 10). -/

namespace Sys2Proof

/-- `FMT` (R9, R13): the floating-point format of the signal chain. -/
inductive Fmt where
  | binary32
  | binary64
  deriving DecidableEq, Repr

/-- `AUDIO_MODE` (R9, D44): how the producer's samples reach the adapter. -/
inductive AudioMode where
  | inline
  | buffered
  deriving DecidableEq, Repr

/-- `BPF_VARIANT` (R9, R241): which of the two cookbook bandpass forms `design` uses. -/
inductive BpfVariant where
  | peak0db
  | skirt
  deriving DecidableEq, Repr

/-- A cut of one interval of `GRAD_ROUND` (R15): a fraction part below `num / den` rounds down, any other up. -/
structure Cut where
  num : Nat
  den : Nat
  deriving DecidableEq, Repr

/-- The cut of the decided default `q ↦ floor(q + 1/2)` (R15, D12). -/
def Cut.half : Cut := ⟨1, 2⟩

/-- `GRAD_ROUND` (R9, R15) as plain data: the cut of the interval from `n` to `n + 1` stands at place `n`, and
is one half where the list has no such place. Every list is a function R15 admits, and every function R15
admits is a list, on the rationals SETGRAD reaches (notes/assumptions/10). -/
abbrev GradRound := List Cut

/-- The configuration record (R9). `FPS` is an operand of RUN, `NUM` stands in the opaque constants
below, `CH_BITS` and `SAMPLE_BITS` are the types' 8 and 16. -/
structure Config where
  w         : Nat
  h         : Nat
  sr        : Nat
  abufSize  : Nat
  tickHz    : Nat
  nvoice    : Nat
  audioMode : AudioMode
  fmt       : Fmt
  gradRound : GradRound
  bpf       : BpfVariant
  deriving DecidableEq, Repr

/-- The ranges of R9. `TICK_HZ < 2^64` is what R32 and R33 need for a 64-bit `SEQ.TPF` (DEDUCED,
notes/assumptions/22). -/
def Config.wf (c : Config) : Bool :=
  decide (1 ≤ c.w ∧ c.w ≤ 32767 ∧ 1 ≤ c.h ∧ c.h ≤ 32767 ∧ (c.sr = 0 ∨ 4 ≤ c.sr) ∧
    1 ≤ c.abufSize ∧ c.abufSize ≤ 65535 ∧ 1 ≤ c.tickHz ∧ c.tickHz < 2 ^ 64 ∧ c.nvoice ≤ 256)

/-- The configuration of `State.reset` (DESIGN CHOICE, unsafe, notes/assumptions/2): the values the
spec's own vectors use (`95_test_vectors.md`, programs P1 to P3). R9 leaves every one of them OPEN but
`GRAD_ROUND` and `BPF_VARIANT`, which take their decided values. -/
def Config.vectors : Config where
  w := 4
  h := 4
  sr := 8
  abufSize := 4
  tickHz := 1000
  nvoice := 1
  audioMode := .inline
  fmt := .binary32
  gradRound := []
  bpf := .peak0db

/-! ### Free values: no body, so no proof can lean on one -/

/-- The k-th noise draw before it is held to [-1, 1] (R206). -/
opaque Config.rawNoise : Fmt → Nat → FReal

/-- The k-th draw of a span slot (R267): any `s16`. -/
opaque Config.spanDraw : Nat → Sample

/-- `NUM.sin2pi` (R14) before it is held to its named properties. -/
opaque Config.rawSin2pi : Fmt → FReal → FReal

/-- `NUM.sin` (R14) before it is held to its named properties. -/
opaque Config.rawSin : Fmt → FReal → FReal

/-- `NUM.cos` (R14) before it is held to its named properties. -/
opaque Config.rawCos : Fmt → FReal → FReal

/-- `NUM.exp2` (R14) before it is held to its named properties: a function from the format's finite values to
values, both numbered in their order. -/
opaque Config.rawExp2 : Fmt → Int → Int

/-- `NUM.pi` (R14) before it is held to be finite. -/
opaque Config.rawPi : Fmt → FReal

end Sys2Proof
end

