-- ==== Sys2Proof/Syntax.lean ====
section
/-! DEFINITION. The instructions: one constructor per row of `spec/opcode_table.json`, carrying the operand
fields its packet, step or signal has (`spec/30_encoding.md` R102 to R110, R116). -/

namespace Sys2Proof

/-- Operands stand as the packet carries them: `x y len w h n` are 16-bit fields read as signed (R104,
R106), `v` is the header's `UNIT`, a real is its pattern (R107). -/
inductive Instr where
  -- VCMD, framebuffer (40_framebuffer.md)
  | putpixel (idx : Byte) (x y : BitVec 16)
  | clear (idx : Byte)
  | hline (idx : Byte) (x y len : BitVec 16)
  | vline (idx : Byte) (x y len : BitVec 16)
  | fillrect (idx : Byte) (x y w h : BitVec 16)
  | blit (srcw : BitVec 16) (dx dy : BitVec 16) (bytes : List Byte)
  | flip
  -- VCMD, palette (41_palette.md)
  | palwr (i : Byte) (c : RGB)
  | palrd (i : Byte)
  | setgrad (first : Byte) (count : BitVec 16) (c0 c1 : RGB)
  | rotpal (first : Byte) (reverse : Bool) (count : BitVec 16)
  | commit
  | pullf2b
  -- VCMD, sequencer (42_raster_sequencer.md)
  | run (fps : BitVec 16)
  | hookret
  -- ACMD, oscillator (43_oscillator.md)
  | oscnext (v : Byte)
  | oscrst (v : Byte)
  | oscnote (v : Byte) (n : BitVec 16)
  | oscfreq (v : Byte) (hz : FReal)
  | oscdet (v : Byte) (cents : FReal)
  | oscwave (v : Byte) (tag : BitVec 3)
  -- ACMD, envelope (44_envelope.md)
  | envnext (v : Byte)
  | envon (v : Byte)
  | envoff (v : Byte)
  | envrst (v : Byte)
  | envatk (v : Byte) (seconds : FReal)
  | envdec (v : Byte) (seconds : FReal)
  | envsus (v : Byte) (level : FReal)
  | envrel (v : Byte) (seconds : FReal)
  -- ACMD, biquad (45_biquad.md)
  | fltproc (v : Byte) (x : FReal)
  | fltrst (v : Byte)
  | flttype (v : Byte) (ty : BitVec 2)
  | fltcut (v : Byte) (hz : FReal)
  | fltres (v : Byte) (q : FReal)
  -- ACMD, voice and producer (46_audio_callback.md)
  | voice (v : Byte)
  | spanwr (slot : BitVec 16) (s : Sample)
  | fillret (err : Bool)
  | abufwr (slot : BitVec 16) (s : Sample)
  | abufrdy
  -- sequencer steps, selected by SEQ.PHASE (R116)
  | seqFramedraw
  | seqScanline
  | seqFlip
  | seqCommit
  | seqPresent
  | seqPace
  -- the signal of the audio backend (R266)
  | pull (n : BitVec 16)
  deriving DecidableEq, Repr

/-- Where an instruction comes from (R111, R116): the video port, the audio port, the sequencer's own
phase, or the backend's signal. -/
inductive Port where
  | vcmd
  | acmd
  | seq
  | sig
  deriving DecidableEq, Repr

/-- Port assignment (R111, R116). -/
def Instr.port : Instr → Port
  | .putpixel .. | .clear .. | .hline .. | .vline .. | .fillrect .. | .blit .. | .flip => .vcmd
  | .palwr .. | .palrd .. | .setgrad .. | .rotpal .. | .commit | .pullf2b => .vcmd
  | .run .. | .hookret => .vcmd
  | .oscnext .. | .oscrst .. | .oscnote .. | .oscfreq .. | .oscdet .. | .oscwave .. => .acmd
  | .envnext .. | .envon .. | .envoff .. | .envrst .. => .acmd
  | .envatk .. | .envdec .. | .envsus .. | .envrel .. => .acmd
  | .fltproc .. | .fltrst .. | .flttype .. | .fltcut .. | .fltres .. => .acmd
  | .voice .. | .spanwr .. | .fillret .. | .abufwr .. | .abufrdy => .acmd
  | .seqFramedraw | .seqScanline | .seqFlip | .seqCommit | .seqPresent | .seqPace => .seq
  | .pull .. => .sig

end Sys2Proof
end

