-- ==== Sys2Proof/WellFormed.lean ====
section
/-! DEFINITION. Which terms of `Instr` are the reading of some packet: the operand types leave two things
to check (`spec/30_encoding.md` R106, R107). -/

namespace Sys2Proof

/-- A real operand is a pattern of the configured format: one word in binary32 (R107). -/
def Fmt.fits (f : Fmt) (r : FReal) : Bool :=
  match f with
  | .binary32 => decide (r.toNat < 2 ^ 32)
  | .binary64 => true

/-- A BLIT byte count fits its 24-bit field (R106). -/
def blitFits (bytes : List Byte) : Bool :=
  decide (bytes.length < 2 ^ 24)

/-- The instruction is what some packet of the configured format says. -/
def Instr.wf (f : Fmt) : Instr → Bool
  | .blit _ _ _ bytes => blitFits bytes
  | .oscfreq _ r | .oscdet _ r => f.fits r
  | .envatk _ r | .envdec _ r | .envsus _ r | .envrel _ r => f.fits r
  | .fltproc _ r | .fltcut _ r | .fltres _ r => f.fits r
  | .putpixel .. | .clear .. | .hline .. | .vline .. | .fillrect .. | .flip => true
  | .palwr .. | .palrd .. | .setgrad .. | .rotpal .. | .commit | .pullf2b => true
  | .run .. | .hookret => true
  | .oscnext .. | .oscrst .. | .oscnote .. | .oscwave .. => true
  | .envnext .. | .envon .. | .envoff .. | .envrst .. => true
  | .fltrst .. | .flttype .. => true
  | .voice .. | .spanwr .. | .fillret .. | .abufwr .. | .abufrdy => true
  | .seqFramedraw | .seqScanline | .seqFlip | .seqCommit | .seqPresent | .seqPace => true
  | .pull .. => true

end Sys2Proof
end

