-- ==== Sys2Proof/Decode.lean ====
section
/-! DEFINITION. The decoder of the two command ports, total on any words and rejecting by name, the encoder
written from the same tables, and the host's `decodeTableWord` (`spec/30_encoding.md` R100 to R116). -/

namespace Sys2Proof

/-! ### Header and operand fields (R102 to R106) -/

def hdrOpc (h : Word) : BitVec 8 := h.extractLsb' 24 8

def hdrUnit (h : Word) : Byte := h.extractLsb' 16 8

def hdrA (h : Word) : BitVec 16 := h.extractLsb' 0 16

/-- `A[7:0]`, a palette index or pixel value (R102). -/
def hdrIdx (h : Word) : Byte := h.extractLsb' 0 8

def lowHalf (w : Word) : BitVec 16 := w.extractLsb' 0 16

def highHalf (w : Word) : BitVec 16 := w.extractLsb' 16 16

/-- A `LEN`, `COUNT` or `SAMPLE` word: `w[31:16]` must be 0 (R106). -/
def half? (w : Word) : Option (BitVec 16) :=
  if highHalf w = 0 then some (lowHalf w) else none

/-- An `RGB` word: `w[31:24]` must be 0 (R105). -/
def rgb? (w : Word) : Option RGB :=
  if w.extractLsb' 24 8 = 0 then some ⟨w.extractLsb' 16 8, w.extractLsb' 8 8, w.extractLsb' 0 8⟩ else none

/-- The byte count `L = W2[23:0]` of a BLIT (R106), whatever `W2[31:24]` holds: it gives the packet's
length (R103). -/
def blen (w : Word) : Nat := (w.extractLsb' 0 24).toNat

/-- The payload bytes, least significant byte of each word first (R109). -/
def unpackBytes : List Word → List Byte
  | [] => []
  | w :: ws => w.extractLsb' 0 8 :: w.extractLsb' 8 8 :: w.extractLsb' 16 8 :: w.extractLsb' 24 8 :: unpackBytes ws

/-- The `L` payload bytes, refused where a pad byte is not 0 (R109). -/
def payload? (len : Nat) (ws : List Word) : Option (List Byte) :=
  if (unpackBytes ws).drop len = List.replicate ((unpackBytes ws).length - len) 0 then
    some ((unpackBytes ws).take len)
  else none

/-- `FW` (R9): the words of one real. -/
def Fmt.words : Fmt → Nat
  | .binary32 => 1
  | .binary64 => 2

/-- A `REAL` operand (R107): one word, or the low word before the high word. -/
def real? (f : Fmt) (ws : List Word) : Option FReal :=
  match f, ws with
  | .binary32, [w] => some (w.setWidth 64)
  | .binary64, [lo, hi] => some (hi ++ lo)
  | _, _ => none

/-! ### The opcode map (R110) -/

/-- Packet formats (R103). -/
inductive Format where
  | f0 | f1 | f2 | f3 | fr | fb
  deriving DecidableEq, Repr

/-- One row of the opcode map: the mask and match over the header word, the format, and the instruction
that the header and its operand words say (none where a must-be-zero operand field is set). -/
structure Row where
  mask   : Word
  pat    : Word
  format : Format
  build  : Fmt → Word → List Word → Option Instr

def Row.opc (r : Row) : BitVec 8 := hdrOpc r.pat

/-- A row with no operand words. -/
def row0 (mask pat : Word) (k : Word → Instr) : Row :=
  ⟨mask, pat, .f0, fun _ h ws => match ws with | [] => some (k h) | _ => none⟩

/-- A row with one operand word. -/
def row1 (mask pat : Word) (k : Word → Word → Option Instr) : Row :=
  ⟨mask, pat, .f1, fun _ h ws => match ws with | [a] => k h a | _ => none⟩

/-- A row with two operand words. -/
def row2 (mask pat : Word) (k : Word → Word → Word → Option Instr) : Row :=
  ⟨mask, pat, .f2, fun _ h ws => match ws with | [a, b] => k h a b | _ => none⟩

/-- A row with three operand words. -/
def row3 (mask pat : Word) (k : Word → Word → Word → Word → Option Instr) : Row :=
  ⟨mask, pat, .f3, fun _ h ws => match ws with | [a, b, c] => k h a b c | _ => none⟩

/-- A row with one real operand. -/
def rowR (mask pat : Word) (k : Word → FReal → Instr) : Row :=
  ⟨mask, pat, .fr, fun f h ws => (real? f ws).map (k h)⟩

/-- The BLIT row: XY, BLEN, payload. -/
def rowB (mask pat : Word) (k : Word → Word → List Byte → Instr) : Row :=
  ⟨mask, pat, .fb, fun _ h ws =>
    match ws with
    | xy :: bl :: pay => if bl.extractLsb' 24 8 = 0 then (payload? (blen bl) pay).map (k h xy) else none
    | _ => none⟩

/-- The VCMD rows of R110. -/
def vcmdRows : List Row := [
  row1 0xFFFFFF00 0x01000000 (fun h a => some (.putpixel (hdrIdx h) (lowHalf a) (highHalf a))),
  row0 0xFFFFFF00 0x02000000 (fun h => .clear (hdrIdx h)),
  row2 0xFFFFFF00 0x03000000 (fun h a b => (half? b).map (.hline (hdrIdx h) (lowHalf a) (highHalf a))),
  row2 0xFFFFFF00 0x04000000 (fun h a b => (half? b).map (.vline (hdrIdx h) (lowHalf a) (highHalf a))),
  row2 0xFFFFFF00 0x05000000
    (fun h a b => some (.fillrect (hdrIdx h) (lowHalf a) (highHalf a) (lowHalf b) (highHalf b))),
  rowB 0xFFFF0000 0x06000000 (fun h a bs => .blit (hdrA h) (lowHalf a) (highHalf a) bs),
  row0 0xFFFFFFFF 0x07000000 (fun _ => .flip),
  row1 0xFFFFFF00 0x10000000 (fun h a => (rgb? a).map (.palwr (hdrIdx h))),
  row0 0xFFFFFF00 0x11000000 (fun h => .palrd (hdrIdx h)),
  row3 0xFFFFFF00 0x12000000 (fun h a b c =>
    match half? a, rgb? b, rgb? c with
    | some n, some c0, some c1 => some (.setgrad (hdrIdx h) n c0 c1)
    | _, _, _ => none),
  row1 0xFFFF7F00 0x13000000 (fun h a => (half? a).map (.rotpal (hdrIdx h) (h.getLsbD 15))),
  row0 0xFFFFFFFF 0x14000000 (fun _ => .commit),
  row0 0xFFFFFFFF 0x15000000 (fun _ => .pullf2b),
  row0 0xFFFF0000 0x20000000 (fun h => .run (hdrA h)),
  row0 0xFFFFFFFF 0x21000000 (fun _ => .hookret)]

/-- The ACMD rows of R110. -/
def acmdRows : List Row := [
  row0 0xFF00FFFF 0x40000000 (fun h => .oscnext (hdrUnit h)),
  row0 0xFF00FFFF 0x41000000 (fun h => .oscrst (hdrUnit h)),
  row0 0xFF000000 0x42000000 (fun h => .oscnote (hdrUnit h) (hdrA h)),
  rowR 0xFF00FFFF 0x43000000 (fun h r => .oscfreq (hdrUnit h) r),
  rowR 0xFF00FFFF 0x44000000 (fun h r => .oscdet (hdrUnit h) r),
  row0 0xFF00FFF8 0x45000000 (fun h => .oscwave (hdrUnit h) (h.extractLsb' 0 3)),
  row0 0xFF00FFFF 0x50000000 (fun h => .envnext (hdrUnit h)),
  row0 0xFF00FFFF 0x51000000 (fun h => .envon (hdrUnit h)),
  row0 0xFF00FFFF 0x52000000 (fun h => .envoff (hdrUnit h)),
  row0 0xFF00FFFF 0x53000000 (fun h => .envrst (hdrUnit h)),
  rowR 0xFF00FFFF 0x54000000 (fun h r => .envatk (hdrUnit h) r),
  rowR 0xFF00FFFF 0x55000000 (fun h r => .envdec (hdrUnit h) r),
  rowR 0xFF00FFFF 0x56000000 (fun h r => .envsus (hdrUnit h) r),
  rowR 0xFF00FFFF 0x57000000 (fun h r => .envrel (hdrUnit h) r),
  rowR 0xFF00FFFF 0x60000000 (fun h r => .fltproc (hdrUnit h) r),
  row0 0xFF00FFFF 0x61000000 (fun h => .fltrst (hdrUnit h)),
  row0 0xFF00FFFC 0x62000000 (fun h => .flttype (hdrUnit h) (h.extractLsb' 0 2)),
  rowR 0xFF00FFFF 0x63000000 (fun h r => .fltcut (hdrUnit h) r),
  rowR 0xFF00FFFF 0x64000000 (fun h r => .fltres (hdrUnit h) r),
  row0 0xFF00FFFF 0x68000000 (fun h => .voice (hdrUnit h)),
  row1 0xFFFF0000 0x70000000 (fun h a => (half? a).map (.spanwr (hdrA h))),
  row0 0xFFFFFFFE 0x71000000 (fun h => .fillret (h.getLsbD 0)),
  row1 0xFFFF0000 0x72000000 (fun h a => (half? a).map (.abufwr (hdrA h))),
  row0 0xFFFFFFFF 0x73000000 (fun _ => .abufrdy)]

/-! ### The decoder (R101, R103, R113, R114) -/

/-- Why a packet is not a legal encoding, in the order of R113. All of them raise `Fault(ILLEGAL)`. -/
inductive DecodeError where
  | unknownOpcode (opc : BitVec 8)
  | reservedHeaderBits (header : Word)
  | reservedOperandBits (header : Word)
  deriving DecidableEq, Repr

/-- What a port reads from the words waiting at it. -/
inductive Decoded where
  /-- a whole packet, and the words after it -/
  | packet (i : Instr) (rest : List Word)
  /-- not all words of the packet are there yet: the executor goes on reading (R101) -/
  | short
  /-- an illegal packet, and the words after it (R291: a faulting packet is consumed whole) -/
  | illegal (why : DecodeError) (rest : List Word)
  deriving DecidableEq, Repr

/-- The row of an opcode in a port's table (R111). -/
def findRow (rows : List Row) (h : Word) : Option Row :=
  rows.find? fun r => r.opc == hdrOpc h

/-- How many operand words the packet has (R103); none while that cannot be told yet (a BLIT whose W2 has
not arrived). -/
def operandCount (f : Fmt) (fm : Format) (ws : List Word) : Option Nat :=
  match fm with
  | .f0 => some 0
  | .f1 => some 1
  | .f2 => some 2
  | .f3 => some 3
  | .fr => some f.words
  | .fb =>
    match ws with
    | _ :: bl :: _ => some (2 + (blen bl + 3) / 4)
    | _ => none

/-- Decode a whole packet of row `r`: header bits first, operand bits next (R113 (2), (4)). -/
def Row.decode (r : Row) (f : Fmt) (h : Word) (ops rest : List Word) : Decoded :=
  if h &&& r.mask = r.pat then
    match r.build f h ops with
    | some i => .packet i rest
    | none => .illegal (.reservedOperandBits h) rest
  else .illegal (.reservedHeaderBits h) rest

/-- Read one packet with a port's table (R101). An unknown opcode has no format, so it is refused at once
(R113 (1)); any other check waits for the packet's last word (notes/assumptions/13). -/
def decodePort (rows : List Row) (f : Fmt) : List Word → Decoded
  | [] => .short
  | h :: ws =>
    match findRow rows h with
    | none => .illegal (.unknownOpcode (hdrOpc h)) ws
    | some r =>
      match operandCount f r.format ws with
      | none => .short
      | some k => if ws.length < k then .short else r.decode f h (ws.take k) (ws.drop k)

/-- What VCMD reads (R111). -/
def decodeVideo (f : Fmt) (ws : List Word) : Decoded := decodePort vcmdRows f ws

/-- What ACMD reads (R111). -/
def decodeAudio (f : Fmt) (ws : List Word) : Decoded := decodePort acmdRows f ws

/-! ### The encoder, from the same tables -/

/-- A header word (R102). -/
def header (opc : BitVec 8) (u : Byte) (a : BitVec 16) : Word := opc ++ u ++ a

/-- An 8-bit operand in `A[7:0]`. -/
def shortA (i : Byte) : BitVec 16 := (0 : BitVec 8) ++ i

/-- The `XY` or `WH` word: the first operand low, the second high (R104, R106). -/
def pairWord (x y : BitVec 16) : Word := y ++ x

/-- A `LEN`, `COUNT` or `SAMPLE` word (R106). -/
def halfWord (n : BitVec 16) : Word := (0 : BitVec 16) ++ n

/-- An `RGB` word (R105). -/
def rgbWord (c : RGB) : Word := (0 : BitVec 8) ++ c.r ++ c.g ++ c.b

/-- The `REAL` layout, of an operand and of a response (R107, R112). -/
def realWords (f : Fmt) (r : FReal) : List Word :=
  match f with
  | .binary32 => [r.extractLsb' 0 32]
  | .binary64 => [r.extractLsb' 0 32, r.extractLsb' 32 32]

/-- The BLIT payload: four bytes a word, first byte least significant, padded with 0 (R109). -/
def packBytes : List Byte → List Word
  | [] => []
  | [a] => [(0 : Byte) ++ (0 : Byte) ++ (0 : Byte) ++ a]
  | [a, b] => [(0 : Byte) ++ (0 : Byte) ++ b ++ a]
  | [a, b, c] => [(0 : Byte) ++ c ++ b ++ a]
  | a :: b :: c :: d :: bs => (d ++ c ++ b ++ a) :: packBytes bs

/-- The words of a packet (R110); none for a sequencer step or a signal, which have no words (R116). -/
def encode (f : Fmt) : Instr → List Word
  | .putpixel i x y => [header 0x01 0 (shortA i), pairWord x y]
  | .clear i => [header 0x02 0 (shortA i)]
  | .hline i x y n => [header 0x03 0 (shortA i), pairWord x y, halfWord n]
  | .vline i x y n => [header 0x04 0 (shortA i), pairWord x y, halfWord n]
  | .fillrect i x y w h => [header 0x05 0 (shortA i), pairWord x y, pairWord w h]
  | .blit sw x y bs => header 0x06 0 sw :: pairWord x y :: BitVec.ofNat 32 bs.length :: packBytes bs
  | .flip => [header 0x07 0 0]
  | .palwr i c => [header 0x10 0 (shortA i), rgbWord c]
  | .palrd i => [header 0x11 0 (shortA i)]
  | .setgrad i n c0 c1 => [header 0x12 0 (shortA i), halfWord n, rgbWord c0, rgbWord c1]
  | .rotpal i rev n => [header 0x13 0 (BitVec.ofBool rev ++ (0 : BitVec 7) ++ i), halfWord n]
  | .commit => [header 0x14 0 0]
  | .pullf2b => [header 0x15 0 0]
  | .run fps => [header 0x20 0 fps]
  | .hookret => [header 0x21 0 0]
  | .oscnext v => [header 0x40 v 0]
  | .oscrst v => [header 0x41 v 0]
  | .oscnote v n => [header 0x42 v n]
  | .oscfreq v r => header 0x43 v 0 :: realWords f r
  | .oscdet v r => header 0x44 v 0 :: realWords f r
  | .oscwave v t => [header 0x45 v ((0 : BitVec 13) ++ t)]
  | .envnext v => [header 0x50 v 0]
  | .envon v => [header 0x51 v 0]
  | .envoff v => [header 0x52 v 0]
  | .envrst v => [header 0x53 v 0]
  | .envatk v r => header 0x54 v 0 :: realWords f r
  | .envdec v r => header 0x55 v 0 :: realWords f r
  | .envsus v r => header 0x56 v 0 :: realWords f r
  | .envrel v r => header 0x57 v 0 :: realWords f r
  | .fltproc v r => header 0x60 v 0 :: realWords f r
  | .fltrst v => [header 0x61 v 0]
  | .flttype v t => [header 0x62 v ((0 : BitVec 14) ++ t)]
  | .fltcut v r => header 0x63 v 0 :: realWords f r
  | .fltres v r => header 0x64 v 0 :: realWords f r
  | .voice v => [header 0x68 v 0]
  | .spanwr slot s => [header 0x70 0 slot, halfWord s]
  | .fillret err => [header 0x71 0 ((0 : BitVec 15) ++ BitVec.ofBool err)]
  | .abufwr slot s => [header 0x72 0 slot, halfWord s]
  | .abufrdy => [header 0x73 0 0]
  | .seqFramedraw | .seqScanline | .seqFlip | .seqCommit | .seqPresent | .seqPace => []
  | .pull _ => []

/-! ### Sequencer steps and the host's table words (R116) -/

/-- The sequencer step a code of `SEQ.PHASE` selects (R116); STOPPED and the reserved code 7 select
none. -/
def decodePhase (code : Nat) : Option Instr :=
  match code with
  | 1 => some .seqFramedraw
  | 2 => some .seqScanline
  | 3 => some .seqFlip
  | 4 => some .seqCommit
  | 5 => some .seqPresent
  | 6 => some .seqPace
  | _ => none

/-- The most words a packet of the table's rows has when every operand word is 0: a header and the three
words of SETGRAD. -/
def longestZeroPacket : Nat := 4

/-- Word `k` of a table word: 32 bits from bit `32·k` on. -/
def tableWord (w k : Nat) : Word := BitVec.ofNat 32 (w >>> (32 * k))

/-- The words of a table word, operand words of zeros after those it gives. -/
def tableWords (nbits w : Nat) : List Word :=
  (List.range (max longestZeroPacket ((nbits + 31) / 32))).map (tableWord w)

/-- The port whose table lists the header's opcode (R111): ACMD for 0x40 to 0x7F, else VCMD. -/
def isAudioHeader (h : Word) : Bool := hdrOpc h >>> 6 == 1

/-- Decode a whole table word on the port its opcode belongs to. -/
def decodeTablePacket (f : Fmt) (ws : List Word) : Decoded :=
  if isAudioHeader (ws.headD 0) then decodeAudio f ws else decodeVideo f ws

/-- The instruction the decoder reads from a table word (notes/assumptions/18). A row of format SEQ has the
3 bits of `SEQ.PHASE`, so one byte; the row of format SIG has no bits; every other row is a header word
and operand words, which are 0 where the table gives none. `FMT` is `Config.vectors`' (an operand of
zeros is 0 in both formats). -/
def decodeTableWord (nbits w : Nat) : Option Instr :=
  if nbits = 0 then some (.pull 0)
  else if nbits ≤ 8 then decodePhase w
  else
    match decodeTablePacket Config.vectors.fmt (tableWords nbits w) with
    | .packet i _ => some i
    | _ => none

end Sys2Proof
end

