-- ==== Sys2Proof/Machine/Float.lean ====
section
/-! DEFINITION. The floating-point operations of the signal chain: one IEEE 754 operation of format `FMT`,
rounded to nearest, ties to even, per arithmetic sign of a rule (`spec/00_scope.md` R13; the definition of
the operations is general knowledge, G2, notes/assumptions/8). A finite value is read as an exact multiple
of the format's least positive value, the operation is computed exactly, and one rounding narrows it. -/

namespace Sys2Proof.Machine

/-- The bits of a significand, the leading one included. -/
def prec : Fmt → Nat
  | .binary32 => 24
  | .binary64 => 53

/-- The bits of a pattern. -/
def width : Fmt → Nat
  | .binary32 => 32
  | .binary64 => 64

/-- Every finite value of the format is a multiple of `2^-scale`. -/
def scale : Fmt → Nat
  | .binary32 => 149
  | .binary64 => 1074

/-- The largest exponent of a power of two of the format. -/
def maxExp : Fmt → Nat
  | .binary32 => 127
  | .binary64 => 1023

/-- The pattern of +infinity, the largest exponent field over a zero fraction. -/
def infBits (f : Fmt) : Nat := 2 ^ (width f - 1) - 2 ^ (prec f - 1)

/-- What a pattern says: a finite value is `(-1)^neg · n · 2^-scale`. -/
inductive FVal where
  | nan
  | inf (neg : Bool)
  | fin (neg : Bool) (n : Nat)
  deriving DecidableEq, Repr

/-- Read a pattern (G2: sign, biased exponent, fraction). -/
def unpack (f : Fmt) (r : FReal) : FVal :=
  let b := r.toNat % 2 ^ width f
  let neg := decide (2 ^ (width f - 1) ≤ b)
  let mag := b % 2 ^ (width f - 1)
  if infBits f < mag then .nan
  else if mag = infBits f then .inf neg
  else
    let e := mag / 2 ^ (prec f - 1)
    let frac := mag % 2 ^ (prec f - 1)
    if e = 0 then .fin neg frac else .fin neg ((2 ^ (prec f - 1) + frac) * 2 ^ (e - 1))

/-- Put the sign over the magnitude bits. -/
def withSign (f : Fmt) (neg : Bool) (mag : Nat) : FReal :=
  BitVec.ofNat 64 (if neg then 2 ^ (width f - 1) + mag else mag)

/-- The one NaN an operation gives (notes/assumptions/8: no rule lets a NaN be seen). -/
def nanPattern (f : Fmt) : FReal := withSign f false (infBits f + 2 ^ (prec f - 2))

def infPattern (f : Fmt) (neg : Bool) : FReal := withSign f neg (infBits f)

/-- `num / den` rounded to the nearest integer, ties to even. -/
def roundEven (num den : Nat) : Nat :=
  let m := num / den
  let rem := num % den
  if den < 2 * rem ∨ (2 * rem = den ∧ m % 2 = 1) then m + 1 else m

/-- Round `(-1)^neg · num/den · 2^-scale` to the format (R13: to nearest, ties to even). The quotient keeps
`prec` significant bits; the sum carries a round-up past the significand into the exponent. -/
def fround (f : Fmt) (neg : Bool) (num den : Nat) : FReal :=
  let q := Nat.log2 (num / den) + 1 - prec f
  let mag := q * 2 ^ (prec f - 1) + roundEven num (den * 2 ^ q)
  if infBits f ≤ mag then infPattern f neg else withSign f neg mag

/-- The signed multiple of `2^-scale`. -/
def signed (neg : Bool) (n : Nat) : Int := if neg then -(n : Int) else n

/-- Round a signed exact result; an exact zero takes the sign given. -/
def roundInt (f : Fmt) (zeroNeg : Bool) (n : Int) (den : Nat) : FReal :=
  if n = 0 then withSign f zeroNeg 0 else fround f (decide (n < 0)) n.natAbs den

/-- IEEE `x + y`. -/
def fadd (f : Fmt) (x y : FReal) : FReal :=
  match unpack f x, unpack f y with
  | .nan, _ => nanPattern f
  | _, .nan => nanPattern f
  | .inf a, .inf b => if a = b then infPattern f a else nanPattern f
  | .inf a, .fin .. => infPattern f a
  | .fin .., .inf b => infPattern f b
  | .fin a m, .fin b n => roundInt f (a && b) (signed a m + signed b n) 1

/-- Sign change, exact. -/
def fneg (f : Fmt) (x : FReal) : FReal :=
  match unpack f x with
  | .nan => nanPattern f
  | .inf a => infPattern f (!a)
  | .fin .. => x ^^^ withSign f true 0

/-- IEEE `x - y`. -/
def fsub (f : Fmt) (x y : FReal) : FReal := fadd f x (fneg f y)

/-- IEEE `x * y`. -/
def fmul (f : Fmt) (x y : FReal) : FReal :=
  match unpack f x, unpack f y with
  | .nan, _ => nanPattern f
  | _, .nan => nanPattern f
  | .inf a, .inf b => infPattern f (a != b)
  | .inf a, .fin b n => if n = 0 then nanPattern f else infPattern f (a != b)
  | .fin a m, .inf b => if m = 0 then nanPattern f else infPattern f (a != b)
  | .fin a m, .fin b n =>
    if m * n = 0 then withSign f (a != b) 0 else fround f (a != b) (m * n) (2 ^ scale f)

/-- IEEE `x / y`. -/
def fdiv (f : Fmt) (x y : FReal) : FReal :=
  match unpack f x, unpack f y with
  | .nan, _ => nanPattern f
  | _, .nan => nanPattern f
  | .inf _, .inf _ => nanPattern f
  | .inf a, .fin b _ => infPattern f (a != b)
  | .fin a _, .inf b => withSign f (a != b) 0
  | .fin a m, .fin b n =>
    if n = 0 then (if m = 0 then nanPattern f else infPattern f (a != b))
    else if m = 0 then withSign f (a != b) 0
    else fround f (a != b) (m * 2 ^ scale f) n

/-- IEEE `x ≤ y`. -/
def fle (f : Fmt) (x y : FReal) : Bool :=
  match unpack f x, unpack f y with
  | .nan, _ => false
  | _, .nan => false
  | .inf true, _ => true
  | _, .inf false => true
  | .inf false, _ => false
  | _, .inf true => false
  | .fin a m, .fin b n => decide (signed a m ≤ signed b n)

/-- IEEE `x < y`. -/
def flt (f : Fmt) (x y : FReal) : Bool := fle f x y && !fle f y x

/-- IEEE `x = y` (the two zeros are equal). -/
def feq (f : Fmt) (x y : FReal) : Bool := fle f x y && fle f y x

/-- Neither NaN nor an infinity (R107). -/
def isFinite (f : Fmt) (x : FReal) : Bool :=
  match unpack f x with
  | .fin .. => true
  | _ => false

/-- The rational `num / den` in the format: exact where representable, else rounded to nearest. -/
def ofRatio (f : Fmt) (num : Int) (den : Nat) : FReal := roundInt f false (num * 2 ^ scale f) den

/-- An integer in the format (R208: exact where representable). -/
def ofInt (f : Fmt) (n : Int) : FReal := ofRatio f n 1

/-- The value 0. -/
def fzero : FReal := 0

/-- `NUM.floor` (R14): the largest integer not above a finite value, exact. -/
def ffloor (f : Fmt) (x : FReal) : FReal :=
  match unpack f x with
  | .fin a n => ofInt f (signed a n / 2 ^ scale f)
  | _ => x

/-- `min` on values of the format (R241). -/
def fmin (f : Fmt) (x y : FReal) : FReal := if fle f x y then x else y

/-- `max` on values of the format (R241). -/
def fmax (f : Fmt) (x y : FReal) : FReal := if fle f y x then x else y

end Sys2Proof.Machine
end

