-- ==== Sys2Proof/Machine/Num.lean ====
section
/-! DEFINITION. The numerics record `NUM` of `spec/00_scope.md` R14 and the noise draw of
`spec/43_oscillator.md` R206: free functions, each an opaque constant of `Config` held to the named
properties of R14 and to nothing else (notes/assumptions/5, 7). -/

namespace Sys2Proof.Machine

/-- The free value where it has the property R14 names, else a value that has it. Every function with the
property is some value of the opaque constant, so nothing is ruled out. -/
def within (ok : FReal → Bool) (raw dflt : FReal) : FReal := if ok raw then raw else dflt

/-- The bits of a free value that a pattern of the format has. -/
def asPattern (f : Fmt) (r : FReal) : FReal := BitVec.ofNat 64 (r.toNat % 2 ^ width f)

def fone (f : Fmt) : FReal := ofInt f 1

def fhalf (f : Fmt) : FReal := ofRatio f 1 2

/-- A value of [-1, 1]. -/
def inUnit (f : Fmt) (r : FReal) : Bool := fle f (ofInt f (-1)) r && fle f r (fone f)

/-- A value of [0, 1]. -/
def inZeroOne (f : Fmt) (r : FReal) : Bool := fle f fzero r && fle f r (fone f)

/-- The finite free value of an operand outside a property's range. -/
def finiteOr (f : Fmt) (raw : FReal) : FReal := within (isFinite f) raw fzero

/-- `NUM.sin2pi(p)` (R14): range [-1, 1]; 0, 1, 0, -1 at 0, 1/4, 1/2, 3/4; `sin2pi(p + 1/2) = -sin2pi(p)`.
-/
def numSin2pi (f : Fmt) (p : FReal) : FReal :=
  let raw := asPattern f (Config.rawSin2pi f p)
  if feq f p fzero || feq f p (fhalf f) then within (fun r => feq f r fzero) raw fzero
  else if feq f p (ofRatio f 1 4) then fone f
  else if feq f p (ofRatio f 3 4) then ofInt f (-1)
  else if flt f fzero p && flt f p (fhalf f) then within (inUnit f) raw fzero
  else if flt f (fhalf f) p && flt f p (fone f) then
    fneg f (within (inUnit f) (asPattern f (Config.rawSin2pi f (fsub f p (fhalf f)))) fzero)
  else finiteOr f raw

/-- The largest value of the format below π (the number π is general knowledge, notes/assumptions/7). -/
def belowPi : Fmt → FReal
  | .binary32 => 0x40490FDA
  | .binary64 => 0x400921FB54442D18

/-- `w` lies in (0, π), where R14 gives `sin` and `cos` their properties. -/
def inHalfTurn (f : Fmt) (w : FReal) : Bool := flt f fzero w && fle f w (belowPi f)

/-- `NUM.sin(w)` (R14): positive on (0, π). -/
def numSin (f : Fmt) (w : FReal) : FReal :=
  if inHalfTurn f w then
    within (fun r => isFinite f r && flt f fzero r) (asPattern f (Config.rawSin f w)) (fone f)
  else finiteOr f (asPattern f (Config.rawSin f w))

/-- `NUM.cos(w)` (R14): strictly between -1 and 1 on (0, π). -/
def numCos (f : Fmt) (w : FReal) : FReal :=
  if inHalfTurn f w then
    within (fun r => flt f (ofInt f (-1)) r && flt f r (fone f)) (asPattern f (Config.rawCos f w)) fzero
  else finiteOr f (asPattern f (Config.rawCos f w))

/-- `NUM.pi` (R14): R14 names no property, so any finite value. -/
def numPi (f : Fmt) : FReal := within (isFinite f) (asPattern f (Config.rawPi f)) (ofInt f 3)

/-- `2^k`, exact, for an integer `k` of the format's range of exponents. -/
def powTwo (f : Fmt) (k : Int) : FReal :=
  if 0 ≤ k then ofRatio f (2 ^ k.toNat) 1 else ofRatio f 1 (2 ^ (-k).toNat)

/-- `k` is an exponent whose power of two the format has. -/
def expInRange (f : Fmt) (k : Int) : Bool := decide (-(scale f : Int) ≤ k ∧ k ≤ (maxExp f : Int))

/-- The place of a finite value in the order of the format: its magnitude bits with its sign, the two zeros at
one place. -/
def orderKey (f : Fmt) (r : FReal) : Int :=
  signed (decide (2 ^ (width f - 1) ≤ r.toNat % 2 ^ width f)) (r.toNat % 2 ^ (width f - 1))

/-- The value at a place of the order. -/
def ofKey (f : Fmt) (k : Int) : FReal := withSign f (decide (k < 0)) k.natAbs

/-- The place of the largest finite value. -/
def maxKey (f : Fmt) : Int := (infBits f : Int) - 1

/-- The place of `2^k`, for an exponent `k` in range. -/
def powKey (f : Fmt) (k : Int) : Int := orderKey f (powTwo f k)

/-- `g` made monotone between the places `lo` and `hi`, with values from `a` to `b`: the middle place takes
`g`'s value there, held to `a` and `b`, and bounds both halves. A monotone `g` is left as it is. -/
def between (g : Int → Int) : Nat → Int → Int → Int → Int → Int → Int
  | 0, _, _, a, _, _ => a
  | n + 1, lo, hi, a, b, x =>
    let m := (lo + hi) / 2
    let y := max a (min b (g m))
    if x = m then y
    else if x < m then between g n lo m a y x
    else between g n m hi y b x

/-- Halvings that reach every place between any two of the format. -/
def halvings : Nat := 66

/-- An interval of exponents: the places between which its operands stand, the places of the least and the
greatest power it may give. -/
structure ExpInterval where
  fromKey : Int
  toKey   : Int
  low     : Int
  high    : Int
  deriving DecidableEq, Repr

/-- The interval of the operands whose floor is `k`: from `k` to `k + 1`, and one interval each for all that is
above and below the format's exponents. -/
def expInterval (f : Fmt) (k : Int) : ExpInterval :=
  let top := (maxExp f : Int)
  let bottom := -(scale f : Int)
  if top ≤ k then ⟨orderKey f (ofInt f top), maxKey f + 1, powKey f top, maxKey f⟩
  else if k < bottom then ⟨-(maxKey f) - 1, orderKey f (ofInt f bottom), -(maxKey f), powKey f bottom⟩
  else ⟨orderKey f (ofInt f k), orderKey f (ofInt f (k + 1)), powKey f k, powKey f (k + 1)⟩

/-- The place of `2^e` at an operand `e` of floor `k` and place `x` that is not an integer in range: the free
function, held to `e`'s interval (R14). -/
def exp2Key (f : Fmt) (k x : Int) : Int :=
  let i := expInterval f k
  between (Config.rawExp2 f) halvings i.fromKey i.toKey i.low i.high x

/-- `NUM.exp2(e)` (R14): finite, `2^k` exactly at an integer `k` in range, monotone; any such function is
`numExp2` for some value of the free one. No rule gives it an operand that is not finite. -/
def numExp2 (f : Fmt) (e : FReal) : FReal :=
  match unpack f e with
  | .fin a n =>
    let k := signed a n / 2 ^ scale f
    if signed a n % 2 ^ scale f = 0 ∧ expInRange f k then powTwo f k
    else ofKey f (exp2Key f k (orderKey f e))
  | _ => ofKey f (Config.rawExp2 f (orderKey f e))

/-- `NUM.draw_noise()` (R206), the k-th draw: any value of [-1, 1]. -/
def drawNoise (f : Fmt) (k : Nat) : FReal := within (inUnit f) (asPattern f (Config.rawNoise f k)) fzero

end Sys2Proof.Machine
end

