-- ==== Sys2Proof/Machine/State.lean ====
section
/-! DEFINITION. The machine's state, as plain data: every piece of state of `spec/10_state.md` R26 to R49 in the
sub-structure of its domain (R3, R20), the inputs and outputs of each domain (R36, R49, R60), the
configuration (R9) and the agenda that says which agent moves next (notes/assumptions/1). -/

namespace Sys2Proof.Machine

/-! ### Enumerated registers -/

/-- `SEQ.PHASE` (R30). The reserved code 7 has no constructor: no rule reaches it (R37 (d)). -/
inductive Phase where
  | stopped | framedraw | scanline | flip | commit | present | pace
  deriving DecidableEq, Repr

/-- `OSC[v].WAVE` (R40), tags 0 to 4. -/
inductive Waveform where
  | sine | square | sawtooth | triangle | noise
  deriving DecidableEq, Repr

/-- `ENV[v].STAGE` (R42), codes 0 to 4. -/
inductive Stage where
  | idle | attack | decay | sustain | release
  deriving DecidableEq, Repr

/-- `FLT[v].TYPE` (R44), codes 0 to 2. -/
inductive FilterType where
  | lowpass | highpass | bandpass
  deriving DecidableEq, Repr

/-- The fault causes (R293), codes 1 to 6. -/
inductive Cause where
  | illegal | access | ownership | badparam | uninit | ubRange
  deriving DecidableEq, Repr

/-- `VFAULT`, `AFAULT` (R35, R48): the valid bit and the 4-bit cause code. -/
structure FaultLatch where
  valid : Bool
  cause : BitVec 4
  deriving DecidableEq, Repr

/-- A parameter register with its hidden `written` bit (R25). -/
structure Param (α : Type) where
  value   : α
  written : Bool
  deriving DecidableEq, Repr

/-! ### Events (R60) -/

/-- Output events of the video domain. -/
inductive VEvent where
  | hookreqFrame
  | hookreqScanline (line : BitVec 16)
  | present (fb : List Byte) (pal : List RGB)
  | vrsp (w : Word)
  deriving DecidableEq, Repr

/-- Output events of the audio domain. -/
inductive AEvent where
  | fillreq (n : BitVec 16)
  | prodreq
  | deliver (samples : List Sample)
  | arsp (words : List Word)
  deriving DecidableEq, Repr

/-! ### The two domains -/

/-- The video domain (R26 to R36), its inputs and its outputs. -/
structure VideoState where
  /-- `FBMEM[0]`, `FBMEM[1]` (R26): unlisted elements are 0 -/
  fb0 : List Host.Cell
  fb1 : List Host.Cell
  /-- `FBSEL` (R27): false is 0, so `FBMEM[0]` is front -/
  fbsel : Bool
  /-- `PALMEM[0]`, `PALMEM[1]` (R28): unlisted entries are black -/
  pal0 : List (Nat × RGB)
  pal1 : List (Nat × RGB)
  /-- `PALSEL` (R29) -/
  palsel : Bool
  /-- `SEQ.PHASE` (R30) -/
  phase : Phase
  /-- `SEQ.LINE` (R31; outside the scanline phase as R174 says, notes/assumptions/14) -/
  line : BitVec 16
  /-- `SEQ.DEADLINE` (R32) -/
  deadline : BitVec 64
  /-- `SEQ.TPF` (R33) -/
  tpf : BitVec 64
  /-- `SEQ.QUIT` (R34) -/
  quit : Bool
  /-- `VFAULT` (R35) -/
  fault : FaultLatch
  /-- the input `NOW` (R36) -/
  now : BitVec 64
  /-- the input `present_ready` (R36) -/
  presentReady : Bool
  /-- the words waiting at VCMD, the next first (R100) -/
  vcmd : List Word
  /-- the responses not yet taken from VRSP, the oldest first (R112) -/
  vrsp : List Word
  /-- the model's own record of the output events, the oldest first (R60, notes/assumptions/16) -/
  events : List VEvent
  deriving DecidableEq, Repr

/-- Oscillator registers (R40). -/
structure Osc where
  phase  : FReal
  inc    : FReal
  freq   : Param FReal
  detune : Param FReal
  wave   : Param Waveform
  noise  : FReal
  deriving DecidableEq, Repr

/-- Envelope registers (R42). -/
structure Env where
  stage    : Stage
  value    : FReal
  relstart : FReal
  attack   : Param FReal
  decay    : Param FReal
  sustain  : Param FReal
  release  : Param FReal
  deriving DecidableEq, Repr

/-- Filter registers (R44). -/
structure Filter where
  ftype  : Param FilterType
  cutoff : Param FReal
  res    : Param FReal
  b0     : FReal
  b1     : FReal
  b2     : FReal
  a1     : FReal
  a2     : FReal
  dirty  : Bool
  x1     : FReal
  x2     : FReal
  y1     : FReal
  y2     : FReal
  deriving DecidableEq, Repr

/-- One voice: one oscillator, one envelope, one filter (D53). -/
structure Voice where
  osc : Osc
  env : Env
  flt : Filter
  deriving DecidableEq, Repr

/-- The audio domain (R40 to R49), its inputs and its outputs. -/
structure AudioState where
  /-- the `NVOICE` voices, voice 0 first -/
  voices : List Voice
  /-- `ABUF[0]`, `ABUF[1]` (R46): unlisted samples are 0 -/
  abuf0 : List (Nat × Sample)
  abuf1 : List (Nat × Sample)
  /-- `ASEL` (R46) -/
  asel : Bool
  /-- `AREADY` (R46) -/
  aready : Bool
  /-- `SPAN` (R47), slot 0 first -/
  span : List Sample
  /-- `FILL.ACTIVE` (R47) -/
  fillActive : Bool
  /-- `FILL.N` (R47) -/
  fillN : BitVec 16
  /-- `AFAULT` (R48) -/
  fault : FaultLatch
  /-- the words waiting at ACMD, the next first (R100) -/
  acmd : List Word
  /-- the words not yet taken from ARSP, the oldest first (R112) -/
  arsp : List Word
  /-- the model's own record of the output events, the oldest first (R60, notes/assumptions/16) -/
  events : List AEvent
  /-- the model's own count of the free draws taken so far (notes/assumptions/5, 6) -/
  draws : Nat
  deriving DecidableEq, Repr

/-! ### Agents and the whole state -/

/-- The two domains (R3). -/
inductive Domain where
  | video | audio
  deriving DecidableEq, Repr

/-- One move of one agent (R18): a turn of a domain of the block, or an input from outside. -/
inductive Move where
  /-- the video domain takes a turn: the command executor or the sequencer (R18) -/
  | video
  /-- the audio command executor takes a turn -/
  | audio
  /-- the video host puts a word at VCMD -/
  | vcmd (w : Word)
  /-- the audio producer puts a word at ACMD -/
  | acmd (w : Word)
  /-- the audio backend asks for `n` samples (R266) -/
  | pull (n : BitVec 16)
  /-- the presentation backend asserts `quit_req` (R182) -/
  | quitReq
  /-- the presentation backend sets the level of `present_ready` (R180) -/
  | presentReady (level : Bool)
  /-- the tick source advances `NOW` (R303) -/
  | tick (n : BitVec 64)
  /-- the platform sets the level of `reset` (R330) -/
  | reset (level : Bool)
  /-- the video host takes a response -/
  | takeVrsp
  /-- the audio producer takes a response word -/
  | takeArsp
  deriving DecidableEq, Repr

/-- The whole machine. -/
structure State where
  /-- the configuration record (R9): no step writes it (R10) -/
  cfg : Config
  video : VideoState
  audio : AudioState
  /-- the level of the input `reset` (R330) -/
  inReset : Bool
  /-- the moves still to come, the next first (notes/assumptions/1) -/
  agenda : List Move
  /-- which domain takes its turn when the agenda is empty (notes/assumptions/1) -/
  turn : Domain
  deriving DecidableEq, Repr

/-! ### How a step can stop -/

/-- Inputs that the environment is assumed never to give: "not a move" (R290 (e)). The machine stops with
the name of the assumption that was broken. All of them are safe: nothing is claimed of what follows. -/
inductive Fault where
  /-- PULL with `n > ABUF_SIZE` (R266, U16). Raised by `execPull`. Safe. -/
  | pullTooLong
  /-- PULL while a fill window is open (R266, U16). Raised by `execPull`. Safe. -/
  | pullDuringFill
  /-- `NOW` would pass 2^64 - 1, which R36 takes as unreachable. Raised by the move `tick`. Safe. -/
  | nowExceeded
  deriving DecidableEq, Repr

/-- Inputs for which there is no machine. -/
inductive Refusal where
  /-- An instruction that has no meaning yet. Raised by an arm of `exec` only. Safe. -/
  | notModelled (mnemonic : String)
  /-- `SR = 0`: the audio domain does not exist, "no ACMD port, no PULL input" (R12). Raised by every
  audio instruction and by the moves `acmd`, `pull` and `takeArsp`. Safe. -/
  | audioAbsent
  deriving DecidableEq, Repr

/-! ### Reset (R62, R331) -/

def FaultLatch.clear : FaultLatch := ⟨false, 0⟩

/-- An unwritten parameter register (R25). The value is DESIGN CHOICE and is never read while `written`
is 0 (notes/assumptions/4). -/
def Param.unwritten {α : Type} (value : α) : Param α := ⟨value, false⟩

/-- `OSC[v]` at reset (R62); `noise` is the reset draw, `inc` is DESIGN CHOICE (notes/assumptions/4). -/
def Osc.reset (noise : FReal) : Osc where
  phase := 0
  inc := 0
  freq := .unwritten 0
  detune := .unwritten 0
  wave := .unwritten .sine
  noise := noise

/-- `ENV[v]` at reset (R62). -/
def Env.reset : Env where
  stage := .idle
  value := 0
  relstart := 0
  attack := .unwritten 0
  decay := .unwritten 0
  sustain := .unwritten 0
  release := .unwritten 0

/-- `FLT[v]` at reset (R62); the five coefficients are DESIGN CHOICE (notes/assumptions/4). -/
def Filter.reset : Filter where
  ftype := .unwritten .lowpass
  cutoff := .unwritten 0
  res := .unwritten 0
  b0 := 0
  b1 := 0
  b2 := 0
  a1 := 0
  a2 := 0
  dirty := true
  x1 := 0
  x2 := 0
  y1 := 0
  y2 := 0

/-- Voice `v` at reset, its noise the draw number `k`. -/
def Voice.reset (f : Fmt) (k : Nat) : Voice := ⟨Osc.reset (drawNoise f k), Env.reset, Filter.reset⟩

/-- The video domain at reset (R62, R331). `NOW` and `present_ready` are inputs, not state: reset leaves
their levels; the record of events is kept (notes/assumptions/15, 16). -/
def VideoState.resetWith (now : BitVec 64) (presentReady : Bool) (events : List VEvent) : VideoState where
  fb0 := []
  fb1 := []
  fbsel := false
  pal0 := []
  pal1 := []
  palsel := false
  phase := .stopped
  line := 0
  deadline := 0
  tpf := 0
  quit := false
  fault := .clear
  now := now
  presentReady := presentReady
  vcmd := []
  vrsp := []
  events := events

/-- No audio domain (R12): no voice, no array, no span; the one value the record has when `SR = 0`. -/
def AudioState.absent (draws : Nat) (events : List AEvent) : AudioState where
  voices := []
  abuf0 := []
  abuf1 := []
  asel := false
  aready := false
  span := []
  fillActive := false
  fillN := 0
  fault := .clear
  acmd := []
  arsp := []
  events := events
  draws := draws

/-- The audio domain at reset (R62, R331), its draws counted from `draws` on. -/
def AudioState.present (c : Config) (draws : Nat) (events : List AEvent) : AudioState where
  voices := (List.range c.nvoice).map fun v => Voice.reset c.fmt (draws + v)
  abuf0 := []
  abuf1 := []
  asel := false
  aready := false
  span := List.replicate c.abufSize 0
  fillActive := false
  fillN := 0
  fault := .clear
  acmd := []
  arsp := []
  events := events
  draws := draws + c.nvoice

/-- The audio domain's part of the reset action: nothing to reset when `SR = 0` (R12). -/
def AudioState.resetWith (c : Config) (draws : Nat) (events : List AEvent) : AudioState :=
  if c.sr = 0 then .absent draws events else .present c draws events

/-- The machine right after reset in configuration `c`, with no input given yet. -/
def State.resetIn (c : Config) : State where
  cfg := c
  video := VideoState.resetWith 0 false []
  audio := AudioState.resetWith c 0 []
  inReset := false
  agenda := []
  turn := .video

/-- The machine right after reset, in the configuration of the spec's vectors (notes/assumptions/2). -/
def State.reset : State := State.resetIn Config.vectors

end Sys2Proof.Machine
end

