-- ==== Sys2Proof/Machine/Flags.lean ====
section
/-! DEFINITION. The status bits (`spec/10_state.md` R23): the codes of the status registers, the fault latches,
the role selects, the access rights of a phase (`spec/42_raster_sequencer.md` R176) and the enabling
conditions of the sequencer steps. -/

namespace Sys2Proof.Machine

/-! ### Codes -/

/-- The 4-bit cause code (R293). -/
def Cause.code : Cause → BitVec 4
  | .illegal => 1
  | .access => 2
  | .ownership => 3
  | .badparam => 4
  | .uninit => 5
  | .ubRange => 6

/-- `UNINIT` and `UB_RANGE` are the model-level causes: no check of the hardware (R295). -/
def Cause.modelLevel : Cause → Bool
  | .uninit | .ubRange => true
  | .illegal | .access | .ownership | .badparam => false

/-- The 3-bit code of `SEQ.PHASE` (R30). -/
def Phase.code : Phase → BitVec 3
  | .stopped => 0
  | .framedraw => 1
  | .scanline => 2
  | .flip => 3
  | .commit => 4
  | .present => 5
  | .pace => 6

/-- The 3-bit code of `ENV[v].STAGE` (R42). -/
def Stage.code : Stage → BitVec 3
  | .idle => 0
  | .attack => 1
  | .decay => 2
  | .sustain => 3
  | .release => 4

/-- The waveform of a tag (R211); tags 5 to 7 are no waveform. -/
def waveformOf (tag : BitVec 3) : Option Waveform :=
  match tag.toNat with
  | 0 => some .sine
  | 1 => some .square
  | 2 => some .sawtooth
  | 3 => some .triangle
  | 4 => some .noise
  | _ => none

/-- The filter type of a number (R244); 3 is no type. -/
def filterTypeOf (ty : BitVec 2) : Option FilterType :=
  match ty.toNat with
  | 0 => some .lowpass
  | 1 => some .highpass
  | 2 => some .bandpass
  | _ => none

/-! ### Fault latches -/

/-- Set the latch; sticky, so a latch that is set keeps its cause (R35, R48). -/
def FaultLatch.raise (l : FaultLatch) (k : Cause) : FaultLatch :=
  if l.valid then l else ⟨true, k.code⟩

/-- The level output `vfault_o` (R296). -/
def State.vfaultOut (s : State) : FaultLatch := s.video.fault

/-- The level output `afault_o` (R296); there is none without an audio domain (R12). -/
def State.afaultOut (s : State) : Option FaultLatch := if s.cfg.sr = 0 then none else some s.audio.fault

/-! ### Role selects -/

/-- `FBSEL <- 1 - FBSEL` (R137, R177): nothing is copied. -/
def VideoState.flipRoles (v : VideoState) : VideoState := { v with fbsel := !v.fbsel }

/-- `PALSEL <- 1 - PALSEL` (R156, R178). -/
def VideoState.commitRoles (v : VideoState) : VideoState := { v with palsel := !v.palsel }

/-- `ASEL <- 1 - ASEL ; AREADY <- 0` (R268). -/
def AudioState.swapRoles (a : AudioState) : AudioState := { a with asel := !a.asel, aready := false }

/-! ### Access rights (R176, R302) -/

/-- The columns of the table of R176. -/
inductive VClass where
  | framebuffer | palette | exchange | run | hookret
  deriving DecidableEq, Repr

/-- What becomes of a packet in a phase. -/
inductive Right where
  | accepted
  | held
  | refused (k : Cause)
  deriving DecidableEq, Repr

/-- The table of R176. -/
def Phase.right (p : Phase) (c : VClass) : Right :=
  match p with
  | .stopped =>
    match c with
    | .framebuffer | .palette | .exchange | .run => .accepted
    | .hookret => .refused .access
  | .framedraw =>
    match c with
    | .framebuffer | .palette | .hookret => .accepted
    | .exchange => .refused .ownership
    | .run => .refused .access
  | .scanline =>
    match c with
    | .palette | .hookret => .accepted
    | .exchange => .refused .ownership
    | .framebuffer | .run => .refused .access
  | .flip | .commit | .present | .pace => .held

/-! ### Enabling conditions (R290 (d)) -/

/-- PRESENT is enabled when `present_ready = 1` (R180). -/
def VideoState.presentEnabled (v : VideoState) : Bool := v.presentReady

/-- The next frame deadline, an integer sum that does not wrap (R32). -/
def VideoState.nextDeadline (v : VideoState) : Nat := v.deadline.toNat + v.tpf.toNat

/-- PACE is enabled when `NOW ≥ SEQ.DEADLINE + SEQ.TPF` (R181, R303). -/
def VideoState.paceEnabled (v : VideoState) : Bool := decide (v.nextDeadline ≤ v.now.toNat)

end Sys2Proof.Machine
end

