-- ==== Sys2Proof/Machine/Operands.lean ====
section
/-! DEFINITION. Operand forms: signed coordinates and shapes, palette ranges, reals, voices
(`spec/30_encoding.md` R104 to R108, R115; `spec/40_framebuffer.md` R131 to R136;
`spec/41_palette.md` R153 to R155). -/

namespace Sys2Proof.Machine

/-! ### Pixels (R104, R138) -/

/-- `0 ≤ x < W and 0 ≤ y < H`, on mathematical integers. -/
def inFrame (c : Config) (x y : Int) : Bool :=
  decide (0 ≤ x ∧ x < (c.w : Int) ∧ 0 ≤ y ∧ y < (c.h : Int))

/-- The element of the pixel at column `x`, row `y` (R71). -/
def pixelIndex (c : Config) (x y : Int) : Nat := (y * (c.w : Int) + x).toNat

/-- Column of element `o` (R26). -/
def pixelX (c : Config) (o : Nat) : Int := ((o % c.w : Nat) : Int)

/-- Row of element `o` (R26). -/
def pixelY (c : Config) (o : Nat) : Int := ((o / c.w : Nat) : Int)

/-- `base ≤ p < base + len`; empty for `len ≤ 0` (R133 to R135). -/
def inSpan (p base len : Int) : Bool := decide (base ≤ p ∧ p < base + len)

/-- The pixels HLINE draws (R133). -/
def hlineShape (idx : Byte) (x y len : Int) (px py : Int) : Option Byte :=
  if py = y ∧ inSpan px x len then some idx else none

/-- The pixels VLINE draws (R134). -/
def vlineShape (idx : Byte) (x y len : Int) (px py : Int) : Option Byte :=
  if px = x ∧ inSpan py y len then some idx else none

/-- The pixels FILLRECT draws (R135). -/
def rectShape (idx : Byte) (x y w h : Int) (px py : Int) : Option Byte :=
  if inSpan px x w ∧ inSpan py y h then some idx else none

/-- The pixels BLIT draws, from a source `srcw` bytes wide and `L div srcw` rows high, row by row (R136). -/
def blitShape (srcw : Nat) (dx dy : Int) (bytes : List Byte) (px py : Int) : Option Byte :=
  if inSpan px dx srcw ∧ inSpan py dy ((bytes.length / srcw : Nat) : Int) then
    some (bytes.getD ((py - dy).toNat * srcw + (px - dx).toNat) 0)
  else none

/-! ### Palette ranges (R153 to R155) -/

/-- `count > 256` is BADPARAM, then `first + count > 256` is UB_RANGE (R154, R155, R294). -/
def rangeCheck (first : Byte) (count : BitVec 16) : Except Cause Unit :=
  if 256 < count.toNat then .error .badparam
  else if 256 < first.toNat + count.toNat then .error .ubRange
  else .ok ()

/-- `GRAD_ROUND(num / den)` (R15): an integer stays, any other value goes down below its interval's cut and up
from the cut on. -/
def gradRound (g : GradRound) (num : Int) (den : Nat) : Int :=
  let n := num / den
  let rest := num % den
  let cut := g.getD n.toNat Cut.half
  if rest = 0 then n
  else if rest * cut.den < cut.num * den then n
  else n + 1

/-- Channel interpolation, on an exact rational (R153): `f + (t - f)·i / (count - 1)`. -/
def lerp (g : GradRound) (f t : Byte) (i count : Nat) : Byte :=
  BitVec.ofInt 8
    (gradRound g ((f.toNat : Int) * ((count - 1 : Nat) : Int) + ((t.toNat : Int) - f.toNat) * i) (count - 1))

/-- Entry `i` of a gradient (R154): `from` when `count = 1`, else each channel on its own. -/
def gradEntry (g : GradRound) (c0 c1 : RGB) (count i : Nat) : RGB :=
  if count = 1 then c0
  else ⟨lerp g c0.r c1.r i count, lerp g c0.g c1.g i count, lerp g c0.b c1.b i count⟩

/-- Which offset of a rotated range the new entry `k` is taken from (R155). -/
def rotSource (reverse : Bool) (count k : Nat) : Nat :=
  if reverse then (if k = count - 1 then 0 else k + 1) else (if k = 0 then count - 1 else k - 1)

/-! ### Parameters -/

/-- A non-finite `REAL` operand is BADPARAM (R107). -/
def finiteOperand (f : Fmt) (r : FReal) : Except Cause FReal :=
  if isFinite f r then .ok r else .error .badparam

/-- `rd(reg)`: UNINIT while the register is unwritten (R17, R25). -/
def Param.rd {α : Type} (p : Param α) : Except Cause α :=
  if p.written then .ok p.value else .error .uninit

/-- A set command's write: the value, and the `written` bit (R25). -/
def Param.set {α : Type} (_ : Param α) (value : α) : Param α := ⟨value, true⟩

/-- The voice of `UNIT`; `UNIT ≥ NVOICE` is ILLEGAL (R108, R113 (3)). -/
def voiceOperand (a : AudioState) (v : Byte) : Except Cause Voice :=
  match a.voices[v.toNat]? with
  | some vc => .ok vc
  | none => .error .illegal

end Sys2Proof.Machine
end

