-- ==== Sys2Proof/Machine/Ops.lean ====
section
/-! DEFINITION. The named operations over memories, ports and latches, taking a fault (the block's exception),
and the frames every meaning is written in (`spec/20_memory.md` R70 to R85, `spec/60_exceptions.md`
R290 to R298). -/

namespace Sys2Proof.Machine

/-! ### Memories: canonical lists of (index, element) (notes/assumptions/23) -/

/-- The element at an index; an unlisted index reads as `z`, the memory's reset value (R62, R75). -/
def memRead {α : Type} (z : α) : List (Nat × α) → Nat → α
  | [], _ => z
  | (k, v) :: m, a => if k = a then v else memRead z m a

/-- Put a value at an index, in index order. -/
def memInsert {α : Type} : List (Nat × α) → Nat → α → List (Nat × α)
  | [], a, v => [(a, v)]
  | (k, w) :: m, a, v =>
    if a < k then (a, v) :: (k, w) :: m
    else if a = k then (a, v) :: m
    else (k, w) :: memInsert m a v

/-- Unlist an index. -/
def memErase {α : Type} (m : List (Nat × α)) (a : Nat) : List (Nat × α) := m.filter fun c => c.1 != a

/-- Write one element (R75). Writing what an unlisted index reads as unlists it. -/
def memWrite {α : Type} [DecidableEq α] (z : α) (m : List (Nat × α)) (a : Nat) (v : α) : List (Nat × α) :=
  if v = z then memErase m a else memInsert m a v

/-- Write the elements below `n` for which `p` gives a value (R79: one atomic command of many accesses). -/
def memPaint {α : Type} [DecidableEq α] (z : α) (m : List (Nat × α)) (p : Nat → Option α) : Nat → List (Nat × α)
  | 0 => m
  | n + 1 =>
    match p n with
    | some v => memWrite z (memPaint z m p n) n v
    | none => memPaint z m p n

/-- The first `n` elements, index 0 first. -/
def memList {α : Type} (z : α) (m : List (Nat × α)) (n : Nat) : List α := (List.range n).map (memRead z m)

/-- Indices strictly rising from `lo` on, no entry equal to what an unlisted index reads as. -/
def memWfFrom {α : Type} [DecidableEq α] (z : α) : Nat → List (Nat × α) → Bool
  | _, [] => true
  | lo, (k, v) :: m => decide (lo ≤ k) && decide (v ≠ z) && memWfFrom z (k + 1) m

/-- The canonical form of a memory. -/
def memWf {α : Type} [DecidableEq α] (z : α) (m : List (Nat × α)) : Bool := memWfFrom z 0 m

/-! ### The four memories by role (R17, R27, R29, R46) -/

/-- `FBMEM[FBSEL]`. -/
def VideoState.fbFront (v : VideoState) : List Host.Cell := if v.fbsel then v.fb1 else v.fb0

/-- `FBMEM[1 - FBSEL]`. -/
def VideoState.fbBack (v : VideoState) : List Host.Cell := if v.fbsel then v.fb0 else v.fb1

/-- Replace the back array; the front is never written (R85). -/
def VideoState.setFbBack (v : VideoState) (m : List Host.Cell) : VideoState :=
  if v.fbsel then { v with fb0 := m } else { v with fb1 := m }

/-- `PALMEM[PALSEL]`. -/
def VideoState.palFront (v : VideoState) : List (Nat × RGB) := if v.palsel then v.pal1 else v.pal0

/-- `PALMEM[1 - PALSEL]`. -/
def VideoState.palBack (v : VideoState) : List (Nat × RGB) := if v.palsel then v.pal0 else v.pal1

/-- Replace the back table. -/
def VideoState.setPalBack (v : VideoState) (m : List (Nat × RGB)) : VideoState :=
  if v.palsel then { v with pal0 := m } else { v with pal1 := m }

/-- `ABUF[ASEL]`. -/
def AudioState.abufFront (a : AudioState) : List (Nat × Sample) := if a.asel then a.abuf1 else a.abuf0

/-- `ABUF[1 - ASEL]`. -/
def AudioState.abufBack (a : AudioState) : List (Nat × Sample) := if a.asel then a.abuf0 else a.abuf1

/-- Replace the back array. -/
def AudioState.setAbufBack (a : AudioState) (m : List (Nat × Sample)) : AudioState :=
  if a.asel then { a with abuf0 := m } else { a with abuf1 := m }

/-- `FB_back[o]`. -/
def VideoState.pixel (v : VideoState) (o : Nat) : Byte := memRead 0 v.fbBack o

/-- `FB_front[o]`. -/
def VideoState.shownPixel (v : VideoState) (o : Nat) : Byte := memRead 0 v.fbFront o

/-- `PAL_back[i]`. -/
def VideoState.entry (v : VideoState) (i : Nat) : RGB := memRead RGB.black v.palBack i

/-- `PAL_front[i]`. -/
def VideoState.shownEntry (v : VideoState) (i : Nat) : RGB := memRead RGB.black v.palFront i

/-- `ABUF_back[i]`. -/
def AudioState.backSample (a : AudioState) (i : Nat) : Sample := memRead 0 a.abufBack i

/-- `ABUF_front[i]`. -/
def AudioState.frontSample (a : AudioState) (i : Nat) : Sample := memRead 0 a.abufFront i

/-- `FB_back[o] <- idx`. -/
def VideoState.setPixel (v : VideoState) (o : Nat) (idx : Byte) : VideoState :=
  v.setFbBack (memWrite 0 v.fbBack o idx)

/-- `PAL_back[i] <- c`. -/
def VideoState.setEntry (v : VideoState) (i : Nat) (c : RGB) : VideoState :=
  v.setPalBack (memWrite RGB.black v.palBack i c)

/-- Write the back table's entries for which `p` gives a colour. -/
def VideoState.paintPalette (v : VideoState) (p : Nat → Option RGB) : VideoState :=
  v.setPalBack (memPaint RGB.black v.palBack p 256)

/-- `plot(x, y, idx)` (R138): inside the framebuffer a write, outside nothing. -/
def VideoState.plot (c : Config) (v : VideoState) (x y : Int) (idx : Byte) : VideoState :=
  if inFrame c x y then v.setPixel (pixelIndex c x y) idx else v

/-- Draw a shape on the back array, pixel by pixel of the framebuffer: what falls inside is drawn, what
falls outside is dropped (R138, notes/assumptions/24). -/
def VideoState.drawShape (c : Config) (v : VideoState) (shape : Int → Int → Option Byte) : VideoState :=
  v.setFbBack (memPaint 0 v.fbBack (fun o => shape (pixelX c o) (pixelY c o)) (c.w * c.h))

/-! ### The hardware buffer region (R47, R267 to R269) -/

/-- `SPAN[0 .. n - 1]`. -/
def AudioState.spanList (a : AudioState) (n : Nat) : List Sample :=
  (List.range n).map fun i => a.span.getD i 0

/-- `for i in 0 .. n - 1: SPAN[i] <- g i`. -/
def AudioState.loadSpan (a : AudioState) (n : Nat) (g : Nat → Sample) : AudioState :=
  { a with span := (List.range n).map g ++ a.span.drop n }

/-! ### Outputs (R60, R112) -/

/-- `emit E` in the video domain. -/
def VideoState.emit (v : VideoState) (e : VEvent) : VideoState := { v with events := v.events ++ [e] }

/-- `respond(VRSP, w)`: the response and its event. -/
def VideoState.respond (v : VideoState) (w : Word) : VideoState :=
  { v.emit (.vrsp w) with vrsp := v.vrsp ++ [w] }

/-- `emit E` in the audio domain. -/
def AudioState.emit (a : AudioState) (e : AEvent) : AudioState := { a with events := a.events ++ [e] }

/-- `respond(ARSP, r)`: one real in the layout of R107. -/
def AudioState.respond (f : Fmt) (a : AudioState) (r : FReal) : AudioState :=
  { a.emit (.arsp (realWords f r)) with arsp := a.arsp ++ realWords f r }

/-- `emit DELIVER(SPAN[0 .. n - 1])` (R269). -/
def AudioState.deliver (a : AudioState) (n : Nat) : AudioState := a.emit (.deliver (a.spanList n))

/-! ### Taking a fault (R291, R292), the block's exception -/

/-- A fault in the video domain: the latch; the domain is halted from then on. The caller passes the state
BEFORE the packet, so every change of the packet is discarded (R291). -/
def VideoState.raise (v : VideoState) (k : Cause) : VideoState := { v with fault := v.fault.raise k }

/-- Close an open fill window with silence (R270). -/
def AudioState.closeFill (a : AudioState) : AudioState :=
  if a.fillActive then
    { (a.loadSpan a.fillN.toNat fun _ => 0).deliver a.fillN.toNat with fillActive := false }
  else a

/-- A fault in the audio domain: the latch, and the adapter closes an open fill (R292, R270). -/
def AudioState.raise (a : AudioState) (k : Cause) : AudioState :=
  { a.closeFill with fault := a.fault.raise k }

/-! ### Hook entry and return (R172, R297, R298) -/

/-- `enter_frame()` (R172): the frame boundary, the entry of the frame-draw hook. -/
def VideoState.enterFrame (v : VideoState) : VideoState :=
  if v.quit then { v with phase := .stopped }
  else { v with line := 0, phase := .framedraw }.emit .hookreqFrame

/-- The entry of the scanline hook for a line (R174, R297). -/
def VideoState.enterScanline (v : VideoState) (line : BitVec 16) : VideoState :=
  { v with phase := .scanline, line := line }.emit (.hookreqScanline line)

/-- The return from the open video hook (R174, R298): on to the first line, the next line, or FLIP, where
`SEQ.LINE` keeps `H - 1` until `enter_frame()` (R174 over a clause of R31, notes/assumptions/14). -/
def VideoState.hookReturn (c : Config) (v : VideoState) : VideoState :=
  match v.phase with
  | .framedraw => v.enterScanline 0
  | .scanline =>
    if v.line.toNat + 1 < c.h then v.enterScanline (v.line + 1)
    else if v.line.toNat + 1 = c.h then { v with phase := .flip }
    else v
  | .stopped | .flip | .commit | .present | .pace => v

/-- The entry of the sample-fill hook (R267, R297): the window opens, the span holds free draws. -/
def AudioState.enterFill (a : AudioState) (n : BitVec 16) : AudioState :=
  ({ a with fillActive := true, fillN := n, draws := a.draws + n.toNat }.loadSpan n.toNat
    fun i => Config.spanDraw (a.draws + i)).emit (.fillreq n)

/-- The return from the sample-fill hook (R263, R298): silence on error, DELIVER, the window closes. -/
def AudioState.fillReturn (a : AudioState) (err : Bool) : AudioState :=
  { (if err then a.loadSpan a.fillN.toNat fun _ => 0 else a).deliver a.fillN.toNat with fillActive := false }

/-! ### The frames of the meanings -/

/-- The end of a VCMD packet's pseudocode: its state, or the fault with every change discarded (R291). -/
def VideoState.settle (v : VideoState) (r : Except Cause VideoState) : VideoState :=
  match r with
  | .ok v' => v'
  | .error k => v.raise k

/-- The end of an ACMD packet's pseudocode (R292). -/
def AudioState.settle (a : AudioState) (r : Except Cause AudioState) : AudioState :=
  match r with
  | .ok a' => a'
  | .error k => a.raise k

/-- A VCMD packet (R176, R290, R291, R294): not executed in a halted domain, held or refused by the phase,
else its pseudocode, whose fault discards every change. -/
def videoCommand (c : VClass) (s : State) (body : VideoState → Except Cause VideoState) :
    Host.Outcome State Fault Refusal :=
  if s.video.fault.valid then .next s
  else
    match s.video.phase.right c with
    | .held => .next s
    | .refused k => .next { s with video := s.video.raise k }
    | .accepted => .next { s with video := s.video.settle (body s.video) }

/-- A sequencer step (R116, R290 (d), R291): it happens in its phase, when it is enabled and the domain has
not faulted; else no state changes. -/
def seqStep (p : Phase) (enabled : VideoState → Bool) (s : State) (body : VideoState → VideoState) :
    Host.Outcome State Fault Refusal :=
  if s.video.fault.valid ∨ s.video.phase ≠ p ∨ enabled s.video = false then .next s
  else .next { s with video := body s.video }

/-- An ACMD packet (R12, R292, R294): no port when `SR = 0`, not executed after an audio fault, else its
pseudocode, whose fault discards every change. -/
def audioCommand (s : State) (body : AudioState → Except Cause AudioState) :
    Host.Outcome State Fault Refusal :=
  if s.cfg.sr = 0 then .refused .audioAbsent
  else if s.audio.fault.valid then .next s
  else .next { s with audio := s.audio.settle (body s.audio) }

/-- What a command of one voice does: the voice afterwards, how many free draws it took, and the real it
responds, if any. -/
structure VoiceResult where
  voice    : Voice
  drawn    : Nat := 0
  response : Option FReal := none
  deriving DecidableEq, Repr

/-- Store a voice's result (R40 to R44, R112). -/
def AudioState.putVoice (f : Fmt) (a : AudioState) (v : Byte) (r : VoiceResult) : AudioState :=
  let a' := { a with voices := a.voices.set v.toNat r.voice, draws := a.draws + r.drawn }
  match r.response with
  | some x => a'.respond f x
  | none => a'

/-- An oscillator, envelope, filter or VOICE command (R108, R200, R220, R240). The pseudocode gets the
voice and the next noise draw. -/
def voiceCommand (v : Byte) (s : State) (body : Voice → FReal → Except Cause VoiceResult) :
    Host.Outcome State Fault Refusal :=
  audioCommand s fun a =>
    match voiceOperand a v with
    | .error k => .error k
    | .ok vc =>
      match body vc (drawNoise s.cfg.fmt a.draws) with
      | .error k => .error k
      | .ok r => .ok (a.putVoice s.cfg.fmt v r)

end Sys2Proof.Machine
end

