-- ==== Sys2Proof/Machine/Oscillator.lean ====
section
/-! DEFINITION. The oscillator commands (`spec/43_oscillator.md` R200 to R211). -/

namespace Sys2Proof.Machine

/-- Effective frequency (R201): `f + ((d / 100) * f) / 12`. -/
def effFreq (f : Fmt) (fr d : FReal) : FReal :=
  fadd f fr (fdiv f (fmul f (fdiv f d (ofInt f 100)) fr) (ofInt f 12))

/-- The waveform function (R202). -/
def waveValue (f : Fmt) (tag : Waveform) (p held : FReal) : FReal :=
  match tag with
  | .sine => numSin2pi f p
  | .square => if flt f p (fhalf f) then fone f else ofInt f (-1)
  | .sawtooth => fsub f (fmul f (ofInt f 2) p) (fone f)
  | .triangle =>
    if flt f p (fhalf f) then fsub f (fmul f (ofInt f 4) p) (fone f)
    else fsub f (ofInt f 3) (fmul f (ofInt f 4) p)
  | .noise => held

/-- Phase wrap (R204), with the guard that keeps the result below 1 under rounding. -/
def wrapPhase (f : Fmt) (q : FReal) : FReal :=
  let r := fsub f q (ffloor f q)
  if fle f (fone f) r then fzero else r

/-- A step wraps when the sum leaves [0, 1) (R205). -/
def wrapped (f : Fmt) (q : FReal) : Bool := fle f (fone f) q || flt f q fzero

/-- `SR` as a value of the format (notes/assumptions/9). -/
def sampleRate (c : Config) : FReal := ofInt c.fmt c.sr

/-- OSCNEXT on the registers (R203): the sample, the registers afterwards, and whether the draw was
taken. -/
def Osc.next (c : Config) (o : Osc) (draw : FReal) : Except Cause (FReal × Osc × Bool) :=
  match o.freq.rd, o.detune.rd, o.wave.rd with
  | .ok fr, .ok d, .ok tag =>
    let e := effFreq c.fmt fr d
    let inc := fdiv c.fmt e (sampleRate c)
    if isFinite c.fmt e && isFinite c.fmt inc then
      let q := fadd c.fmt o.phase inc
      let w := wrapped c.fmt q
      .ok (waveValue c.fmt tag o.phase o.noise,
        { o with inc := inc, phase := wrapPhase c.fmt q, noise := if w then draw else o.noise }, w)
    else .error .badparam
  | _, _, _ => .error .uninit

/-- The frequency of a note (R208): `440 * exp2((n - 69) / 12)`. -/
def noteFreq (f : Fmt) (n : BitVec 16) : FReal :=
  fmul f (ofInt f 440) (numExp2 f (fdiv f (ofInt f (n.toInt - 69)) (ofInt f 12)))

/-- OSCNEXT (R203). -/
def execOscnext (v : Byte) (s : State) : Host.Outcome State Fault Refusal :=
  voiceCommand v s fun vc draw =>
    match vc.osc.next s.cfg draw with
    | .error k => .error k
    | .ok (out, o, w) => .ok ⟨{ vc with osc := o }, if w then 1 else 0, some out⟩

/-- OSCRST (R207): the phase only; not a wrap. -/
def execOscrst (v : Byte) (s : State) : Host.Outcome State Fault Refusal :=
  voiceCommand v s fun vc _ => .ok ⟨{ vc with osc := { vc.osc with phase := fzero } }, 0, none⟩

/-- OSCNOTE (R208): BADPARAM where the frequency overflows. -/
def execOscnote (v : Byte) (n : BitVec 16) (s : State) : Host.Outcome State Fault Refusal :=
  voiceCommand v s fun vc _ =>
    let fr := noteFreq s.cfg.fmt n
    if isFinite s.cfg.fmt fr then
      .ok ⟨{ vc with osc := { vc.osc with freq := vc.osc.freq.set fr } }, 0, none⟩
    else .error .badparam

/-- OSCFREQ (R209). -/
def execOscfreq (v : Byte) (hz : FReal) (s : State) : Host.Outcome State Fault Refusal :=
  voiceCommand v s fun vc _ =>
    match finiteOperand s.cfg.fmt hz with
    | .error k => .error k
    | .ok r => .ok ⟨{ vc with osc := { vc.osc with freq := vc.osc.freq.set r } }, 0, none⟩

/-- OSCDET (R210). -/
def execOscdet (v : Byte) (cents : FReal) (s : State) : Host.Outcome State Fault Refusal :=
  voiceCommand v s fun vc _ =>
    match finiteOperand s.cfg.fmt cents with
    | .error k => .error k
    | .ok r => .ok ⟨{ vc with osc := { vc.osc with detune := vc.osc.detune.set r } }, 0, none⟩

/-- OSCWAVE (R211): tags 5 to 7 are BADPARAM. -/
def execOscwave (v : Byte) (tag : BitVec 3) (s : State) : Host.Outcome State Fault Refusal :=
  voiceCommand v s fun vc _ =>
    match waveformOf tag with
    | none => .error .badparam
    | some w => .ok ⟨{ vc with osc := { vc.osc with wave := vc.osc.wave.set w } }, 0, none⟩

end Sys2Proof.Machine
end

