-- ==== Sys2Proof/Machine/Biquad.lean ====
section
/-! DEFINITION. The biquad filter commands (`spec/45_biquad.md` R240 to R248). -/

namespace Sys2Proof.Machine

/-- The cutoff, clamped to `[1, SR/2 - 1]` (R241). -/
def clampCutoff (c : Config) (cut : FReal) : FReal :=
  fmin c.fmt (fmax c.fmt cut (fone c.fmt)) (fsub c.fmt (fdiv c.fmt (sampleRate c) (ofInt c.fmt 2)) (fone c.fmt))

/-- The resonance, floored at 0.01 (R241). -/
def floorRes (c : Config) (res : FReal) : FReal := fmax c.fmt res (ofRatio c.fmt 1 100)

/-- The coefficients of the cookbook equations, in the written order of operations (R241, G1). -/
def Filter.coefficients (c : Config) (ty : FilterType) (cut res : FReal) (fl : Filter) : Filter :=
  let f := c.fmt
  let one := fone f
  let two := ofInt f 2
  let w0 := fdiv f (fmul f (fmul f two (numPi f)) (clampCutoff c cut)) (sampleRate c)
  let cs := numCos f w0
  let sn := numSin f w0
  let alpha := fdiv f sn (fmul f two (floorRes c res))
  let a0 := fadd f one alpha
  let a1 := fmul f (ofInt f (-2)) cs
  let a2 := fsub f one alpha
  let b : FReal × FReal × FReal :=
    match ty with
    | .lowpass => (fdiv f (fsub f one cs) two, fsub f one cs, fdiv f (fsub f one cs) two)
    | .highpass => (fdiv f (fadd f one cs) two, fneg f (fadd f one cs), fdiv f (fadd f one cs) two)
    | .bandpass =>
      match c.bpf with
      | .peak0db => (alpha, fzero, fneg f alpha)
      | .skirt => (fdiv f sn two, fzero, fneg f (fdiv f sn two))
  { fl with
    b0 := fdiv f b.1 a0, b1 := fdiv f b.2.1 a0, b2 := fdiv f b.2.2 a0
    a1 := fdiv f a1 a0, a2 := fdiv f a2 a0 }

/-- `design(v)` (R241): UNINIT while a parameter is unwritten. -/
def Filter.design (c : Config) (fl : Filter) : Except Cause Filter :=
  match fl.ftype.rd, fl.cutoff.rd, fl.res.rd with
  | .ok ty, .ok cut, .ok res => .ok (fl.coefficients c ty cut res)
  | _, _, _ => .error .uninit

/-- Recompute the coefficients when they are stale, and clear `DIRTY` (R247). -/
def Filter.refresh (c : Config) (fl : Filter) : Except Cause Filter :=
  if fl.dirty then
    match fl.design c with
    | .error k => .error k
    | .ok fl' => .ok { fl' with dirty := false }
  else .ok fl

/-- The difference equation (R242): five products, summed left to right. -/
def Filter.output (f : Fmt) (fl : Filter) (x : FReal) : FReal :=
  fsub f
    (fsub f
      (fadd f (fadd f (fmul f fl.b0 x) (fmul f fl.b1 fl.x1)) (fmul f fl.b2 fl.x2))
      (fmul f fl.a1 fl.y1))
    (fmul f fl.a2 fl.y2)

/-- FLTPROC on the registers (R242): the response and the registers afterwards. -/
def Filter.process (c : Config) (fl : Filter) (x : FReal) : Except Cause (FReal × Filter) :=
  match fl.refresh c with
  | .error k => .error k
  | .ok fl' =>
    let y := fl'.output c.fmt x
    if isFinite c.fmt y then .ok (y, { fl' with x2 := fl'.x1, x1 := x, y2 := fl'.y1, y1 := y })
    else .error .badparam

/-- FLTPROC (R242). -/
def execFltproc (v : Byte) (x : FReal) (s : State) : Host.Outcome State Fault Refusal :=
  voiceCommand v s fun vc _ =>
    match finiteOperand s.cfg.fmt x with
    | .error k => .error k
    | .ok x =>
      match vc.flt.process s.cfg x with
      | .error k => .error k
      | .ok (y, fl) => .ok ⟨{ vc with flt := fl }, 0, some y⟩

/-- FLTRST (R243): the delay line only. -/
def execFltrst (v : Byte) (s : State) : Host.Outcome State Fault Refusal :=
  voiceCommand v s fun vc _ =>
    .ok ⟨{ vc with flt := { vc.flt with x1 := fzero, x2 := fzero, y1 := fzero, y2 := fzero } }, 0, none⟩

/-- FLTTYPE (R244): type 3 is BADPARAM. -/
def execFlttype (v : Byte) (ty : BitVec 2) (s : State) : Host.Outcome State Fault Refusal :=
  voiceCommand v s fun vc _ =>
    match filterTypeOf ty with
    | none => .error .badparam
    | some t => .ok ⟨{ vc with flt := { vc.flt with ftype := vc.flt.ftype.set t, dirty := true } }, 0, none⟩

/-- FLTCUT (R245): stored as written. -/
def execFltcut (v : Byte) (hz : FReal) (s : State) : Host.Outcome State Fault Refusal :=
  voiceCommand v s fun vc _ =>
    match finiteOperand s.cfg.fmt hz with
    | .error k => .error k
    | .ok r => .ok ⟨{ vc with flt := { vc.flt with cutoff := vc.flt.cutoff.set r, dirty := true } }, 0, none⟩

/-- FLTRES (R246): stored as written. -/
def execFltres (v : Byte) (q : FReal) (s : State) : Host.Outcome State Fault Refusal :=
  voiceCommand v s fun vc _ =>
    match finiteOperand s.cfg.fmt q with
    | .error k => .error k
    | .ok r => .ok ⟨{ vc with flt := { vc.flt with res := vc.flt.res.set r, dirty := true } }, 0, none⟩

end Sys2Proof.Machine
end

