-- ==== Sys2Proof/Machine/Envelope.lean ====
section
/-! DEFINITION. The envelope commands (`spec/44_envelope.md` R220 to R229). -/

namespace Sys2Proof.Machine

/-- `step = 1 / SR` (R220). -/
def envStep (c : Config) : FReal := fdiv c.fmt (fone c.fmt) (sampleRate c)

/-- ENVNEXT on the registers (R221): one stage action; only the current stage's parameters are read. -/
def Env.next (c : Config) (e : Env) : Except Cause Env :=
  let f := c.fmt
  match e.stage with
  | .idle => .ok { e with value := fzero }
  | .attack =>
    match e.attack.rd with
    | .error k => .error k
    | .ok a =>
      let val := fadd f e.value (fdiv f (envStep c) a)
      if fle f a fzero || fle f (fone f) val then .ok { e with value := fone f, stage := .decay }
      else .ok { e with value := val }
  | .decay =>
    match e.decay.rd with
    | .error k => .error k
    | .ok dt =>
      match e.sustain.rd with
      | .error k => .error k
      | .ok sl =>
        let val := fsub f e.value (fdiv f (envStep c) dt)
        if fle f dt fzero || fle f val sl then .ok { e with value := sl, stage := .sustain }
        else .ok { e with value := val }
  | .sustain =>
    match e.sustain.rd with
    | .error k => .error k
    | .ok sl => .ok { e with value := sl }
  | .release =>
    match e.release.rd with
    | .error k => .error k
    | .ok r =>
      let val := fsub f e.value (fdiv f (fmul f e.relstart (envStep c)) r)
      if fle f r fzero || fle f val fzero then .ok { e with value := fzero, stage := .idle }
      else .ok { e with value := val }

/-- ENVNEXT (R221): responds the value after the update. -/
def execEnvnext (v : Byte) (s : State) : Host.Outcome State Fault Refusal :=
  voiceCommand v s fun vc _ =>
    match vc.env.next s.cfg with
    | .error k => .error k
    | .ok e => .ok ⟨{ vc with env := e }, 0, some e.value⟩

/-- ENVON (R222): the value is carried, not zeroed. -/
def execEnvon (v : Byte) (s : State) : Host.Outcome State Fault Refusal :=
  voiceCommand v s fun vc _ => .ok ⟨{ vc with env := { vc.env with stage := .attack } }, 0, none⟩

/-- ENVOFF (R223): nothing in Idle, else Release from the current value. -/
def execEnvoff (v : Byte) (s : State) : Host.Outcome State Fault Refusal :=
  voiceCommand v s fun vc _ =>
    if vc.env.stage = .idle then .ok ⟨vc, 0, none⟩
    else .ok ⟨{ vc with env := { vc.env with relstart := vc.env.value, stage := .release } }, 0, none⟩

/-- ENVRST (R224). -/
def execEnvrst (v : Byte) (s : State) : Host.Outcome State Fault Refusal :=
  voiceCommand v s fun vc _ =>
    .ok ⟨{ vc with env := { vc.env with stage := .idle, value := fzero } }, 0, none⟩

/-- ENVATK (R225). -/
def execEnvatk (v : Byte) (seconds : FReal) (s : State) : Host.Outcome State Fault Refusal :=
  voiceCommand v s fun vc _ =>
    match finiteOperand s.cfg.fmt seconds with
    | .error k => .error k
    | .ok r => .ok ⟨{ vc with env := { vc.env with attack := vc.env.attack.set r } }, 0, none⟩

/-- ENVDEC (R226). -/
def execEnvdec (v : Byte) (seconds : FReal) (s : State) : Host.Outcome State Fault Refusal :=
  voiceCommand v s fun vc _ =>
    match finiteOperand s.cfg.fmt seconds with
    | .error k => .error k
    | .ok r => .ok ⟨{ vc with env := { vc.env with decay := vc.env.decay.set r } }, 0, none⟩

/-- ENVSUS (R227): a level outside [0, 1] is BADPARAM. -/
def execEnvsus (v : Byte) (level : FReal) (s : State) : Host.Outcome State Fault Refusal :=
  voiceCommand v s fun vc _ =>
    match finiteOperand s.cfg.fmt level with
    | .error k => .error k
    | .ok r =>
      if inZeroOne s.cfg.fmt r then
        .ok ⟨{ vc with env := { vc.env with sustain := vc.env.sustain.set r } }, 0, none⟩
      else .error .badparam

/-- ENVREL (R228). -/
def execEnvrel (v : Byte) (seconds : FReal) (s : State) : Host.Outcome State Fault Refusal :=
  voiceCommand v s fun vc _ =>
    match finiteOperand s.cfg.fmt seconds with
    | .error k => .error k
    | .ok r => .ok ⟨{ vc with env := { vc.env with release := vc.env.release.set r } }, 0, none⟩

end Sys2Proof.Machine
end

