-- ==== Sys2Proof/Machine/Adapter.lean ====
section
/-! DEFINITION. The voice chain, the producer packets and the callback adapter
(`spec/46_audio_callback.md` R260 to R273). -/

namespace Sys2Proof.Machine

/-- VOICE on the registers (R261): oscillator, filter, envelope, `f * e`; a fault of any part is the fault of
the whole. -/
def Voice.next (c : Config) (vc : Voice) (draw : FReal) : Except Cause VoiceResult :=
  match vc.osc.next c draw with
  | .error k => .error k
  | .ok (out, o, w) =>
    match finiteOperand c.fmt out with
    | .error k => .error k
    | .ok x =>
      match vc.flt.process c x with
      | .error k => .error k
      | .ok (y, fl) =>
        match vc.env.next c with
        | .error k => .error k
        | .ok e => .ok ⟨⟨o, e, fl⟩, if w then 1 else 0, some (fmul c.fmt y e.value)⟩

/-- VOICE (R261): one response, not three. -/
def execVoice (v : Byte) (s : State) : Host.Outcome State Fault Refusal :=
  voiceCommand v s fun vc draw => vc.next s.cfg draw

/-- The fill window is open: `AUDIO_MODE = INLINE` and `FILL.ACTIVE = 1` (R262, R263). -/
def AudioState.windowOpen (c : Config) (a : AudioState) : Bool :=
  decide (c.audioMode = .inline) && a.fillActive

/-- SPANWR (R262). -/
def execSpanwr (slot : BitVec 16) (sample : Sample) (s : State) : Host.Outcome State Fault Refusal :=
  audioCommand s fun a =>
    if a.windowOpen s.cfg = false then .error .access
    else if a.fillN ≤ slot then .error .badparam
    else .ok { a with span := a.span.set slot.toNat sample }

/-- FILLRET (R263). -/
def execFillret (err : Bool) (s : State) : Host.Outcome State Fault Refusal :=
  audioCommand s fun a =>
    if a.windowOpen s.cfg = false then .error .access
    else .ok (a.fillReturn err)

/-- ABUFWR (R264). -/
def execAbufwr (slot : BitVec 16) (sample : Sample) (s : State) : Host.Outcome State Fault Refusal :=
  audioCommand s fun a =>
    if s.cfg.audioMode ≠ .buffered then .error .access
    else if a.aready then .error .ownership
    else if s.cfg.abufSize ≤ slot.toNat then .error .badparam
    else .ok (a.setAbufBack (memWrite 0 a.abufBack slot.toNat sample))

/-- ABUFRDY (R265). -/
def execAbufrdy (s : State) : Host.Outcome State Fault Refusal :=
  audioCommand s fun a =>
    if s.cfg.audioMode ≠ .buffered then .error .access
    else .ok { a with aready := true }

/-- The adapter's answer in BUFFERED mode (R268): swap and copy out, or silence. -/
def AudioState.bufferedPull (a : AudioState) (n : BitVec 16) : AudioState :=
  let b := { a with fillN := n }
  if a.aready then
    let sw := b.swapRoles
    ((sw.loadSpan n.toNat sw.frontSample).deliver n.toNat).emit .prodreq
  else (b.loadSpan n.toNat fun _ => 0).deliver n.toNat

/-- The adapter's answer after an audio fault (R270): `n` zeros, no swap, no request, nothing else
(notes/assumptions/17). -/
def AudioState.silentPull (a : AudioState) (n : BitVec 16) : AudioState :=
  a.emit (.deliver (List.replicate n.toNat 0))

/-- PULL (R266 to R268, R270). A PULL that breaks R266's conditions, and any PULL with no audio domain (R12),
is not a move: the step stops (notes/assumptions/12). -/
def execPull (n : BitVec 16) (s : State) : Host.Outcome State Fault Refusal :=
  if s.cfg.sr = 0 then .refused .audioAbsent
  else if s.cfg.abufSize < n.toNat then .fault .pullTooLong
  else if s.audio.fault.valid then .next { s with audio := s.audio.silentPull n }
  else
    match s.cfg.audioMode with
    | .inline =>
      if s.audio.fillActive then .fault .pullDuringFill
      else .next { s with audio := s.audio.enterFill n }
    | .buffered => .next { s with audio := s.audio.bufferedPull n }

end Sys2Proof.Machine
end

