-- ==== Sys2Proof/Machine/Framebuffer.lean ====
section
/-! DEFINITION. The framebuffer commands (`spec/40_framebuffer.md` R130 to R139). -/

namespace Sys2Proof.Machine

/-- PUTPIXEL (R131): no clipping; outside the framebuffer the model-level fault UB_RANGE. -/
def execPutpixel (idx : Byte) (x y : BitVec 16) (s : State) : Host.Outcome State Fault Refusal :=
  videoCommand .framebuffer s fun v =>
    if inFrame s.cfg x.toInt y.toInt then .ok (v.setPixel (pixelIndex s.cfg x.toInt y.toInt) idx)
    else .error .ubRange

/-- CLEAR (R132): every element of the back array. -/
def execClear (idx : Byte) (s : State) : Host.Outcome State Fault Refusal :=
  videoCommand .framebuffer s fun v => .ok (v.drawShape s.cfg fun _ _ => some idx)

/-- HLINE (R133). -/
def execHline (idx : Byte) (x y len : BitVec 16) (s : State) : Host.Outcome State Fault Refusal :=
  videoCommand .framebuffer s fun v => .ok (v.drawShape s.cfg (hlineShape idx x.toInt y.toInt len.toInt))

/-- VLINE (R134). -/
def execVline (idx : Byte) (x y len : BitVec 16) (s : State) : Host.Outcome State Fault Refusal :=
  videoCommand .framebuffer s fun v => .ok (v.drawShape s.cfg (vlineShape idx x.toInt y.toInt len.toInt))

/-- FILLRECT (R135): clipped (C1). -/
def execFillrect (idx : Byte) (x y w h : BitVec 16) (s : State) : Host.Outcome State Fault Refusal :=
  videoCommand .framebuffer s fun v =>
    .ok (v.drawShape s.cfg (rectShape idx x.toInt y.toInt w.toInt h.toInt))

/-- BLIT (R136): `srcw = 0` is BADPARAM. -/
def execBlit (srcw dx dy : BitVec 16) (bytes : List Byte) (s : State) : Host.Outcome State Fault Refusal :=
  videoCommand .framebuffer s fun v =>
    if srcw = 0 then .error .badparam
    else .ok (v.drawShape s.cfg (blitShape srcw.toNat dx.toInt dy.toInt bytes))

/-- FLIP, the packet (R137): only in STOPPED, else OWNERSHIP (R176). -/
def execFlip (s : State) : Host.Outcome State Fault Refusal :=
  videoCommand .exchange s fun v => .ok v.flipRoles

/-- The displayed picture of a PRESENT (R186): `display[o] = pal[fb[o]]`. -/
def picture (fb : List Byte) (pal : List RGB) : List RGB := fb.map fun i => pal.getD i.toNat RGB.black

/-- The pixels of `for i in 0 .. n - 1: plot(px i, py i, idx i)`, in order: the loop form in which R133 to
R136 write the clipping commands. -/
def VideoState.plotLoop (c : Config) (v : VideoState) (p : Nat → Int × Int × Byte) : Nat → VideoState
  | 0 => v
  | n + 1 =>
    let v' := v.plotLoop c p n
    v'.plot c (p n).1 (p n).2.1 (p n).2.2

end Sys2Proof.Machine
end

