-- ==== Sys2Proof/Machine/Palette.lean ====
section
/-! DEFINITION. The palette commands (`spec/41_palette.md` R150 to R158). -/

namespace Sys2Proof.Machine

/-- PALWR (R151). -/
def execPalwr (i : Byte) (c : RGB) (s : State) : Host.Outcome State Fault Refusal :=
  videoCommand .palette s fun v => .ok (v.setEntry i.toNat c)

/-- PALRD (R152): responds the back table's entry. -/
def execPalrd (i : Byte) (s : State) : Host.Outcome State Fault Refusal :=
  videoCommand .palette s fun v => .ok (v.respond (rgbWord (v.entry i.toNat)))

/-- The entries of `first .. first + count - 1`, by their offset in the range. -/
def rangeEntries (first : Byte) (count : BitVec 16) (g : Nat → RGB) (i : Nat) : Option RGB :=
  if first.toNat ≤ i ∧ i < first.toNat + count.toNat then some (g (i - first.toNat)) else none

/-- SETGRAD (R154). -/
def execSetgrad (first : Byte) (count : BitVec 16) (c0 c1 : RGB) (s : State) :
    Host.Outcome State Fault Refusal :=
  videoCommand .palette s fun v =>
    match rangeCheck first count with
    | .error k => .error k
    | .ok _ => .ok (v.paintPalette (rangeEntries first count (gradEntry s.cfg.gradRound c0 c1 count.toNat)))

/-- ROTPAL (R155): all reads before any write. -/
def execRotpal (first : Byte) (reverse : Bool) (count : BitVec 16) (s : State) :
    Host.Outcome State Fault Refusal :=
  videoCommand .palette s fun v =>
    match rangeCheck first count with
    | .error k => .error k
    | .ok _ =>
      .ok (v.paintPalette
        (rangeEntries first count fun k => v.entry (first.toNat + rotSource reverse count.toNat k)))

/-- COMMIT, the packet (R156): only in STOPPED, else OWNERSHIP (R176). -/
def execCommit (s : State) : Host.Outcome State Fault Refusal :=
  videoCommand .exchange s fun v => .ok v.commitRoles

/-- PULLF2B (R157): the front table is copied into the back table. -/
def execPullf2b (s : State) : Host.Outcome State Fault Refusal :=
  videoCommand .palette s fun v => .ok (v.paintPalette fun i => some (v.shownEntry i))

end Sys2Proof.Machine
end

