-- ==== Sys2Proof/Machine/Sequencer.lean ====
section
/-! DEFINITION. The raster sequencer: RUN, HOOKRET and the six steps (`spec/42_raster_sequencer.md`
R170 to R186). -/

namespace Sys2Proof.Machine

/-- RUN (R171): `SEQ.TPF <- floor(TICK_HZ / fps)`, `SEQ.DEADLINE <- NOW`, `enter_frame()`. -/
def execRun (fps : BitVec 16) (s : State) : Host.Outcome State Fault Refusal :=
  videoCommand .run s fun v =>
    if fps = 0 then .error .badparam
    else .ok { v with tpf := BitVec.ofNat 64 (s.cfg.tickHz / fps.toNat), deadline := v.now }.enterFrame

/-- HOOKRET (R174). -/
def execHookret (s : State) : Host.Outcome State Fault Refusal :=
  videoCommand .hookret s fun v => .ok (v.hookReturn s.cfg)

/-- SEQ.FRAMEDRAW (R173): the sequencer takes no step of its own; it waits for packets. -/
def execSeqFramedraw (s : State) : Host.Outcome State Fault Refusal :=
  seqStep .framedraw (fun _ => true) s fun v => v

/-- SEQ.SCANLINE (R175): the sequencer waits for packets. -/
def execSeqScanline (s : State) : Host.Outcome State Fault Refusal :=
  seqStep .scanline (fun _ => true) s fun v => v

/-- SEQ.FLIP (R177). -/
def execSeqFlip (s : State) : Host.Outcome State Fault Refusal :=
  seqStep .flip (fun _ => true) s fun v => { v.flipRoles with phase := .commit }

/-- SEQ.COMMIT (R178). -/
def execSeqCommit (s : State) : Host.Outcome State Fault Refusal :=
  seqStep .commit (fun _ => true) s fun v => { v.commitRoles with phase := .present }

/-- SEQ.PRESENT (R180): the whole front array and front table, when the backend is ready. -/
def execSeqPresent (s : State) : Host.Outcome State Fault Refusal :=
  seqStep .present VideoState.presentEnabled s fun v =>
    { v.emit (.present (memList 0 v.fbFront (s.cfg.w * s.cfg.h)) (memList RGB.black v.palFront 256)) with
      phase := .pace }

/-- SEQ.PACE (R181): one period later, from the deadline, never from `NOW`; then `enter_frame()`. -/
def execSeqPace (s : State) : Host.Outcome State Fault Refusal :=
  seqStep .pace VideoState.paceEnabled s fun v =>
    { v with deadline := BitVec.ofNat 64 v.nextDeadline }.enterFrame

end Sys2Proof.Machine
end

