-- ==== Sys2Proof/Machine/Dispatch.lean ====
section
/-! DEFINITION. What each instruction does: one arm per constructor, each one call of its meaning. -/

namespace Sys2Proof.Machine

def exec (i : Instr) (s : State) : Host.Outcome State Fault Refusal :=
  match i with
  | .putpixel idx x y => Sys2Proof.Machine.execPutpixel idx x y s
  | .clear idx => Sys2Proof.Machine.execClear idx s
  | .hline idx x y len => Sys2Proof.Machine.execHline idx x y len s
  | .vline idx x y len => Sys2Proof.Machine.execVline idx x y len s
  | .fillrect idx x y w h => Sys2Proof.Machine.execFillrect idx x y w h s
  | .blit srcw dx dy bytes => Sys2Proof.Machine.execBlit srcw dx dy bytes s
  | .flip => Sys2Proof.Machine.execFlip s
  | .palwr entry c => Sys2Proof.Machine.execPalwr entry c s
  | .palrd entry => Sys2Proof.Machine.execPalrd entry s
  | .setgrad first count c0 c1 => Sys2Proof.Machine.execSetgrad first count c0 c1 s
  | .rotpal first reverse count => Sys2Proof.Machine.execRotpal first reverse count s
  | .commit => Sys2Proof.Machine.execCommit s
  | .pullf2b => Sys2Proof.Machine.execPullf2b s
  | .run fps => Sys2Proof.Machine.execRun fps s
  | .hookret => Sys2Proof.Machine.execHookret s
  | .oscnext v => Sys2Proof.Machine.execOscnext v s
  | .oscrst v => Sys2Proof.Machine.execOscrst v s
  | .oscnote v n => Sys2Proof.Machine.execOscnote v n s
  | .oscfreq v hz => Sys2Proof.Machine.execOscfreq v hz s
  | .oscdet v cents => Sys2Proof.Machine.execOscdet v cents s
  | .oscwave v tag => Sys2Proof.Machine.execOscwave v tag s
  | .envnext v => Sys2Proof.Machine.execEnvnext v s
  | .envon v => Sys2Proof.Machine.execEnvon v s
  | .envoff v => Sys2Proof.Machine.execEnvoff v s
  | .envrst v => Sys2Proof.Machine.execEnvrst v s
  | .envatk v seconds => Sys2Proof.Machine.execEnvatk v seconds s
  | .envdec v seconds => Sys2Proof.Machine.execEnvdec v seconds s
  | .envsus v level => Sys2Proof.Machine.execEnvsus v level s
  | .envrel v seconds => Sys2Proof.Machine.execEnvrel v seconds s
  | .fltproc v x => Sys2Proof.Machine.execFltproc v x s
  | .fltrst v => Sys2Proof.Machine.execFltrst v s
  | .flttype v ty => Sys2Proof.Machine.execFlttype v ty s
  | .fltcut v hz => Sys2Proof.Machine.execFltcut v hz s
  | .fltres v q => Sys2Proof.Machine.execFltres v q s
  | .voice v => Sys2Proof.Machine.execVoice v s
  | .spanwr slot sample => Sys2Proof.Machine.execSpanwr slot sample s
  | .fillret err => Sys2Proof.Machine.execFillret err s
  | .abufwr slot sample => Sys2Proof.Machine.execAbufwr slot sample s
  | .abufrdy => Sys2Proof.Machine.execAbufrdy s
  | .seqFramedraw => Sys2Proof.Machine.execSeqFramedraw s
  | .seqScanline => Sys2Proof.Machine.execSeqScanline s
  | .seqFlip => Sys2Proof.Machine.execSeqFlip s
  | .seqCommit => Sys2Proof.Machine.execSeqCommit s
  | .seqPresent => Sys2Proof.Machine.execSeqPresent s
  | .seqPace => Sys2Proof.Machine.execSeqPace s
  | .pull n => Sys2Proof.Machine.execPull n s

end Sys2Proof.Machine
end

