-- ==== Sys2Proof/Machine/Fetch.lean ====
section
/-! DEFINITION. Which agent moves next and what it does: the inputs from outside, reset, and the choice of the
instruction that runs (`spec/00_scope.md` R18, `spec/20_memory.md` R81 to R84, `spec/42_raster_sequencer.md`
R176, R182, `spec/60_exceptions.md` R290, R296, R301, `spec/70_reset_and_hazards.md` R330, R331). -/

namespace Sys2Proof.Machine

/-- What a move comes to. -/
inductive Fetched where
  /-- the instruction `i` runs, on the state `s` from which its words have been taken -/
  | run (i : Instr) (s : State)
  /-- no instruction runs; the state afterwards -/
  | stay (s : State)
  /-- an input the environment is assumed never to give -/
  | stop (why : Fault)
  /-- an input for which there is no machine -/
  | refuse (why : Refusal)
  deriving DecidableEq, Repr

/-- The sequencer step a phase takes without any packet (R170, R176): none in STOPPED and in the two hook
windows. -/
def Phase.ownStep : Phase → Option Instr
  | .flip => some .seqFlip
  | .commit => some .seqCommit
  | .present => some .seqPresent
  | .pace => some .seqPace
  | .stopped | .framedraw | .scanline => none

/-- The sequencer's wait in a hook window with no packet at the port (R173, R175). -/
def Phase.wait : Phase → Option Instr
  | .framedraw => some .seqFramedraw
  | .scanline => some .seqScanline
  | .stopped | .flip | .commit | .present | .pace => none

/-- The video domain's turn: nothing in a halted domain (R291) or in reset (R330); in FLIP to PACE the
sequencer's step, the packets being held at the port (R176); else the next packet of VCMD. -/
def State.videoTurn (s : State) : Fetched :=
  if s.inReset || s.video.fault.valid then .stay s
  else
    match s.video.phase.ownStep with
    | some i => .run i s
    | none =>
      match decodeVideo s.cfg.fmt s.video.vcmd with
      | .packet i rest => .run i { s with video := { s.video with vcmd := rest } }
      | .illegal _ rest => .stay { s with video := { s.video with vcmd := rest }.raise .illegal }
      | .short =>
        match s.video.phase.wait with
        | some i => .run i s
        | none => .stay s

/-- The audio command executor's turn: nothing without an audio domain (R12), after an audio fault (R292)
or in reset (R330); else the next packet of ACMD. -/
def State.audioTurn (s : State) : Fetched :=
  if s.inReset || s.audio.fault.valid || s.cfg.sr == 0 then .stay s
  else
    match decodeAudio s.cfg.fmt s.audio.acmd with
    | .packet i rest => .run i { s with audio := { s.audio with acmd := rest } }
    | .illegal _ rest => .stay { s with audio := { s.audio with acmd := rest }.raise .illegal }
    | .short => .stay s

/-- The reset action (R331): every piece of state takes its reset value, both ports are emptied. The levels
of the inputs, the records of events and the count of draws go on (notes/assumptions/5, 15, 16). -/
def State.resetAction (s : State) : State :=
  { s with
    inReset := false
    video := VideoState.resetWith s.video.now s.video.presentReady s.video.events
    audio := AudioState.resetWith s.cfg s.audio.draws s.audio.events }

/-- The level of the input `reset` (R330): the reset action happens on its release. -/
def State.setReset (s : State) (level : Bool) : State :=
  if level then { s with inReset := true }
  else if s.inReset then s.resetAction
  else s

/-- The tick source (R36): `NOW` never decreases and does not wrap. -/
def State.tick (s : State) (n : BitVec 64) : Fetched :=
  if s.video.now.toNat + n.toNat < 2 ^ 64 then
    .stay { s with video := { s.video with now := s.video.now + n } }
  else .stop .nowExceeded

/-- An input of the audio domain: with `SR = 0` there is no port and no PULL to give it at (R12). -/
def State.audioInput (s : State) (f : Fetched) : Fetched :=
  if s.cfg.sr = 0 then .refuse .audioAbsent else f

/-- One move of one agent (R18). -/
def State.move (s : State) (m : Move) : Fetched :=
  match m with
  | .video => s.videoTurn
  | .audio => s.audioTurn
  | .vcmd w => .stay { s with video := { s.video with vcmd := s.video.vcmd ++ [w] } }
  | .acmd w => s.audioInput (.stay { s with audio := { s.audio with acmd := s.audio.acmd ++ [w] } })
  | .pull n => s.audioInput (if s.inReset then .stay s else .run (.pull n) s)
  | .quitReq => .stay { s with video := { s.video with quit := true } }
  | .presentReady level => .stay { s with video := { s.video with presentReady := level } }
  | .tick n => s.tick n
  | .reset level => .stay (s.setReset level)
  | .takeVrsp => .stay { s with video := { s.video with vrsp := s.video.vrsp.tail } }
  | .takeArsp => s.audioInput (.stay { s with audio := { s.audio with arsp := s.audio.arsp.tail } })

/-- The next move, and the state with that move taken off the agenda. With an empty agenda the two domains
take turns (notes/assumptions/1). -/
def State.nextMove (s : State) : Move × State :=
  match s.agenda with
  | m :: rest => (m, { s with agenda := rest })
  | [] =>
    match s.turn with
    | .video => (.video, { s with turn := .audio })
    | .audio => (.audio, { s with turn := .video })

/-- What the next step runs. -/
def State.fetch (s : State) : Fetched := s.nextMove.2.move s.nextMove.1

/-! ### Placing one instruction where the next step fetches it (notes/assumptions/3) -/

/-- The phase of a 3-bit code (R30); the reserved code and STOPPED select no step. -/
def phaseOfCode (code : Nat) : Phase :=
  match code with
  | 1 => .framedraw
  | 2 => .scanline
  | 3 => .flip
  | 4 => .commit
  | 5 => .present
  | 6 => .pace
  | _ => .stopped

/-- How many words a table word's packet takes: the header, the operand words its format prescribes, and at
least the words the table word gives. -/
def packetLength (f : Fmt) (nbits : Nat) (ws : List Word) : Nat :=
  let rows := if isAudioHeader (ws.headD 0) then acmdRows else vcmdRows
  let operands :=
    match findRow rows (ws.headD 0) with
    | some r => (operandCount f r.format ws.tail).getD 0
    | none => 0
  max ((nbits + 31) / 32) (1 + operands)

/-- A domain that can run: out of reset, no fault latched. -/
def State.runnable (s : State) : State :=
  { s with
    inReset := false
    video := { s.video with fault := .clear }
    audio := { s.audio with fault := .clear } }

/-- Select a sequencer step by its phase, enabled, with no packet in its way. -/
def State.placeStep (s : State) (p : Phase) : State :=
  let v := { s.video with phase := p }
  let v := if p.wait.isSome then { v with vcmd := [] } else v
  let v := if p = .present then { v with presentReady := true } else v
  let v := if p = .pace ∧ v.paceEnabled = false then { v with now := BitVec.ofNat 64 v.nextDeadline } else v
  { s with video := v, agenda := .video :: s.agenda }

/-- Put a packet's words first at its port, in a phase in which packets are not held, and give its domain the
next turn. -/
def State.placePacket (s : State) (ws : List Word) : State :=
  if isAudioHeader (ws.headD 0) then
    { s with audio := { s.audio with acmd := ws ++ s.audio.acmd }, agenda := .audio :: s.agenda }
  else
    let p := if s.video.phase.ownStep.isSome then Phase.stopped else s.video.phase
    { s with
      video := { s.video with vcmd := ws ++ s.video.vcmd, phase := p }
      agenda := .video :: s.agenda }

/-- Place a table word (`decodeTableWord`) so that the next step runs it. -/
def State.placeTableWord (s : State) (nbits w : Nat) : State :=
  if nbits = 0 then { s.runnable with agenda := .pull 0 :: s.agenda }
  else if nbits ≤ 8 then s.runnable.placeStep (phaseOfCode w)
  else
    let ws := tableWords nbits w
    s.runnable.placePacket (ws.take (packetLength s.cfg.fmt nbits ws))

end Sys2Proof.Machine
end

