-- ==== Sys2Proof/Machine/Step.lean ====
section
/-! DEFINITION. The step function, and the host's placing of one instruction where the next step fetches it. -/

namespace Sys2Proof.Machine

/-- One step: one move of one agent (R18). Where the move runs an instruction, the step is `exec` of it. -/
def step (s : State) : Host.Outcome State Fault Refusal :=
  match s.fetch with
  | .run i s' => exec i s'
  | .stay s' => .next s'
  | .stop why => .fault why
  | .refuse why => .refused why

/-- `s` with the table word placed so that the very next step runs it (notes/assumptions/3). -/
def State.withFetchWord (s : State) (nbits w : Nat) : State := s.placeTableWord nbits w

end Sys2Proof.Machine
end

