-- ==== Sys2Proof/Safety.lean ====
section
/-! DEFINITION. What the rules keep true of every state, and what a safe run is: the terms the statements use
(`spec/10_state.md` R32, R35, R37, R41, R43, R46 to R48, `spec/42_raster_sequencer.md` R184,
`spec/60_exceptions.md` R293, R295). -/

namespace Sys2Proof.Machine

/-! ### Faults -/

/-- No fault has been latched in either domain. -/
def State.unfaulted (s : State) : Bool := !s.video.fault.valid && !s.audio.fault.valid

/-- A model-level cause has been latched (R295): nothing may be concluded about the hardware. -/
def State.modelLevelFault (s : State) : Bool :=
  (s.video.fault.valid && s.video.fault.cause == Cause.ubRange.code) ||
    (s.audio.fault.valid && s.audio.fault.cause == Cause.uninit.code)

/-- A latch holds code 0 while clear, and one of the given causes' codes once set (R293). -/
def FaultLatch.within (l : FaultLatch) (causes : List Cause) : Bool :=
  if l.valid then (causes.map Cause.code).contains l.cause else l.cause == 0

/-- The causes VCMD packets raise (R293). -/
def videoCauses : List Cause := [.illegal, .access, .ownership, .badparam, .ubRange]

/-- The causes ACMD packets raise (R293). -/
def audioCauses : List Cause := [.illegal, .access, .ownership, .badparam, .uninit]

/-! ### Memories -/

/-- The canonical form, and no element beyond the memory's size. -/
def memOk {α : Type} [DecidableEq α] (z : α) (size : Nat) (m : List (Nat × α)) : Bool :=
  memWf z m && m.all fun c => c.1 < size

/-- The four video memories (R26, R28). -/
def VideoState.memoriesOk (c : Config) (v : VideoState) : Bool :=
  memOk 0 (c.w * c.h) v.fb0 && memOk 0 (c.w * c.h) v.fb1 &&
    memOk RGB.black 256 v.pal0 && memOk RGB.black 256 v.pal1

/-- The two sample arrays and the span, and the current request fits the span (R46, R47, R266); no audio memory
when `SR = 0` (R12). -/
def AudioState.memoriesOk (c : Config) (a : AudioState) : Bool :=
  if c.sr = 0 then a.abuf0.isEmpty && a.abuf1.isEmpty && a.span.isEmpty
  else
    memOk 0 c.abufSize a.abuf0 && memOk 0 c.abufSize a.abuf1 && a.span.length == c.abufSize &&
      decide (a.fillN.toNat ≤ c.abufSize)

/-- Every memory is in its canonical form and within its size. -/
def State.memoriesOk (s : State) : Bool := s.video.memoriesOk s.cfg && s.audio.memoriesOk s.cfg

/-! ### The sequencer (R32, R33, R37) -/

/-- `SEQ.LINE < H`, `SEQ.DEADLINE ≤ NOW`, `SEQ.TPF ≤ TICK_HZ`, and the latch's code is one of R293's. -/
def State.sequencerOk (s : State) : Bool :=
  decide (s.video.line.toNat < s.cfg.h) && decide (s.video.deadline.toNat ≤ s.video.now.toNat) &&
    decide (s.video.tpf.toNat ≤ s.cfg.tickHz) && s.video.fault.within videoCauses

/-! ### The adapter (R46 to R48, R270, R299) -/

/-- One voice record per voice; a fill window is open only in INLINE mode and in an unfaulted domain; the
latch's code is one of R293's. With `SR = 0` there is no audio state at all (R12). -/
def State.adapterOk (s : State) : Bool :=
  if s.cfg.sr = 0 then decide (s.audio = .absent 0 [])
  else
    s.audio.voices.length == s.cfg.nvoice &&
      (!s.audio.fillActive || (decide (s.cfg.audioMode = .inline) && !s.audio.fault.valid)) &&
      s.audio.fault.within audioCauses

/-! ### Voices (R40 to R44) -/

/-- A written parameter register has a property (R40: finite). -/
def Param.holds {α : Type} (p : Param α) (ok : α → Bool) : Bool := !p.written || ok p.value

/-- `0 ≤ PHASE < 1`, `NOISE` in [-1, 1], written parameters finite (R40, R41). -/
def Osc.ok (f : Fmt) (o : Osc) : Bool :=
  fle f fzero o.phase && flt f o.phase (fone f) && inUnit f o.noise &&
    o.freq.holds (isFinite f) && o.detune.holds (isFinite f)

/-- `0 ≤ VALUE ≤ 1`, `0 ≤ RELSTART ≤ 1`, a written sustain level in [0, 1], written times finite (R42,
R43). -/
def Env.ok (f : Fmt) (e : Env) : Bool :=
  inZeroOne f e.value && inZeroOne f e.relstart && e.sustain.holds (inZeroOne f) &&
    e.attack.holds (isFinite f) && e.decay.holds (isFinite f) && e.release.holds (isFinite f)

/-- Written filter parameters finite, the delay line finite (R44, R242). -/
def Filter.ok (f : Fmt) (fl : Filter) : Bool :=
  fl.cutoff.holds (isFinite f) && fl.res.holds (isFinite f) &&
    isFinite f fl.x1 && isFinite f fl.x2 && isFinite f fl.y1 && isFinite f fl.y2

/-- Every oscillator is as R41 says. -/
def State.oscillatorsOk (s : State) : Bool := s.audio.voices.all fun vc => vc.osc.ok s.cfg.fmt

/-- Every envelope is as R43 says. -/
def State.envelopesOk (s : State) : Bool := s.audio.voices.all fun vc => vc.env.ok s.cfg.fmt

/-- Every filter's registers are as R44 says. -/
def State.filtersOk (s : State) : Bool := s.audio.voices.all fun vc => vc.flt.ok s.cfg.fmt

/-- `GRAD_ROUND` as the function on rationals that R15 makes it. -/
def gradRoundAt (g : GradRound) (q : ℚ) : ℤ := gradRound g q.num q.den

/-- What R15 asks of a rounding: the identity on integers, nearer than 1, monotone. -/
structure IsGradRound (g : ℚ → ℤ) : Prop where
  onInt : ∀ n : ℤ, g n = n
  near : ∀ q, |(g q : ℚ) - q| < 1
  mono : Monotone g

/-- The signed multiple of `2^-scale` that a finite pattern is; 0 for the others. -/
def exactValue (f : Fmt) (r : FReal) : Int :=
  match unpack f r with
  | .fin a n => signed a n
  | _ => 0

/-- Twice the largest finite value of the format and half a unit in its last place: where rounding to nearest
overflows (R13, G2), as a multiple of `2^-scale`. -/
def twiceOverflow (f : Fmt) : Int := (2 ^ (prec f + 1) - 1) * 2 ^ (scale f + maxExp f + 1 - prec f)

/-- `r` is the exact quotient `p / d`, in multiples of `2^-scale`, rounded as R13 says: below the overflow bound a
finite value than which none is nearer, of two equally near the one with the even significand (the lowest bit of
a pattern is the lowest bit of its significand); from the bound on the infinity of the quotient's sign. -/
def IsRounded (f : Fmt) (p d : Int) (r : FReal) : Prop :=
  (2 * |p| < twiceOverflow f * |d| →
    isFinite f r = true ∧
    ∀ z : FReal, isFinite f z = true →
      |exactValue f r * d - p| ≤ |exactValue f z * d - p| ∧
      (|exactValue f r * d - p| = |exactValue f z * d - p| → exactValue f z ≠ exactValue f r →
        r.getLsbD 0 = false)) ∧
  (twiceOverflow f * |d| ≤ 2 * |p| → unpack f r = .inf (decide (p * d < 0)))

/-! ### The order of the video events (R184) -/

/-- Where a frame's events stand. -/
inductive TracePos where
  | outside
  | frame
  | line (k : Nat)
  deriving DecidableEq, Repr

/-- One more event: `HOOKREQ(FRAME)`, then lines 0 to H-1 in order, then `PRESENT`; responses anywhere. -/
def tracePosStep (h : Nat) (p : Option TracePos) (e : VEvent) : Option TracePos :=
  match p, e with
  | some p, .vrsp _ => some p
  | some .outside, .hookreqFrame => some .frame
  | some .frame, .hookreqScanline l => if l = 0 ∧ 0 < h then some (.line 0) else none
  | some (.line k), .hookreqScanline l => if l.toNat = k + 1 ∧ k + 1 < h then some (.line (k + 1)) else none
  | some (.line k), .present _ _ => if k + 1 = h then some .outside else none
  | _, _ => none

/-- Where a sequence of events stands; none once the order is broken. -/
def tracePos (h : Nat) (es : List VEvent) : Option TracePos := es.foldl (tracePosStep h) (some .outside)

/-- Where the events stand in each phase (R184). -/
def VideoState.expectedPos (h : Nat) (v : VideoState) : TracePos :=
  match v.phase with
  | .stopped | .pace => .outside
  | .framedraw => .frame
  | .scanline => .line v.line.toNat
  | .flip | .commit | .present => .line (h - 1)

/-- The events so far are in R184's order and stand where the sequencer stands; the line is one of the
frame's. -/
def State.traceOk (s : State) : Bool :=
  decide (tracePos s.cfg.h s.video.events = some (s.video.expectedPos s.cfg.h)) &&
    decide (s.video.line.toNat < s.cfg.h)

/-- The next step carries out a reset: the level of `reset` falls. -/
def State.releasesReset (s : State) : Bool := s.inReset && (s.nextMove.1 == .reset false)

/-! ### When a domain takes a command (R176, R200, R220, R240, R302) -/

/-- The video domain has not faulted and takes framebuffer commands (R176). -/
abbrev State.canDraw (s : State) : Prop :=
  s.video.fault.valid = false ∧ (s.video.phase = .stopped ∨ s.video.phase = .framedraw)

/-- The video domain has not faulted and takes palette commands (R176). -/
abbrev State.canPaint (s : State) : Prop :=
  s.video.fault.valid = false ∧
    (s.video.phase = .stopped ∨ s.video.phase = .framedraw ∨ s.video.phase = .scanline)

/-- The video domain has not faulted and its frame loop is not running (R30). -/
abbrev State.isStopped (s : State) : Prop := s.video.fault.valid = false ∧ s.video.phase = .stopped

/-- The video domain has not faulted and a video hook window is open (R297). -/
abbrev State.inVideoHook (s : State) : Prop :=
  s.video.fault.valid = false ∧ (s.video.phase = .framedraw ∨ s.video.phase = .scanline)

/-- The video domain has not faulted and the window of a scanline hook is open (R175). -/
abbrev State.inScanline (s : State) : Prop := s.video.fault.valid = false ∧ s.video.phase = .scanline

/-- There is an audio domain and it has not faulted (R12, R292). -/
abbrev State.audioRuns (s : State) : Prop := s.cfg.sr ≠ 0 ∧ s.audio.fault.valid = false

/-- A fill window is open in a running audio domain (R262, R263). -/
abbrev State.fillOpen (s : State) : Prop :=
  s.audioRuns ∧ s.cfg.audioMode = .inline ∧ s.audio.fillActive = true

/-- Voice `v` exists, is `vc`, and commands to it are taken (R108, R200). -/
abbrev State.hasVoice (s : State) (v : Byte) (vc : Voice) : Prop :=
  s.audioRuns ∧ s.audio.voices[v.toNat]? = some vc

/-- The column of R176 a VCMD packet stands in; none for what is no VCMD packet. -/
def vclassOf : Instr → Option VClass
  | .putpixel .. | .clear .. | .hline .. | .vline .. | .fillrect .. | .blit .. => some .framebuffer
  | .palwr .. | .palrd .. | .setgrad .. | .rotpal .. | .pullf2b => some .palette
  | .flip | .commit => some .exchange
  | .run .. => some .run
  | .hookret => some .hookret
  | _ => none

/-- The `UNIT` of an oscillator, envelope, filter or VOICE command (R108). -/
def unitOf : Instr → Option Byte
  | .oscnext v | .oscrst v | .oscnote v _ | .oscfreq v _ | .oscdet v _ | .oscwave v _ => some v
  | .envnext v | .envon v | .envoff v | .envrst v => some v
  | .envatk v _ | .envdec v _ | .envsus v _ | .envrel v _ => some v
  | .fltproc v _ | .fltrst v | .flttype v _ | .fltcut v _ | .fltres v _ => some v
  | .voice v => some v
  | _ => none

/-- The `REAL` operand of a command (R107). -/
def realOf : Instr → Option FReal
  | .oscfreq _ r | .oscdet _ r | .envatk _ r | .envdec _ r | .envsus _ r | .envrel _ r => some r
  | .fltproc _ r | .fltcut _ r | .fltres _ r => some r
  | _ => none

/-- The opcodes of VCMD (R111). -/
def videoOpcodes : List (BitVec 8) :=
  [0x01, 0x02, 0x03, 0x04, 0x05, 0x06, 0x07, 0x10, 0x11, 0x12, 0x13, 0x14, 0x15, 0x20, 0x21]

/-- The opcodes of ACMD (R111). -/
def audioOpcodes : List (BitVec 8) :=
  [0x40, 0x41, 0x42, 0x43, 0x44, 0x45, 0x50, 0x51, 0x52, 0x53, 0x54, 0x55, 0x56, 0x57, 0x60, 0x61, 0x62, 0x63,
    0x64, 0x68, 0x70, 0x71, 0x72, 0x73]

/-- A move of an agent of the video domain (R18). -/
def Move.ofVideo : Move → Bool
  | .video | .vcmd _ | .quitReq | .presentReady _ | .tick _ | .takeVrsp => true
  | .audio | .acmd _ | .pull _ | .takeArsp | .reset _ => false

/-- A move of an agent of the audio domain (R18). -/
def Move.ofAudio : Move → Bool
  | .audio | .acmd _ | .pull _ | .takeArsp => true
  | .video | .vcmd _ | .quitReq | .presentReady _ | .tick _ | .takeVrsp | .reset _ => false

/-! ### What a command may change: the frames of the statements -/

/-- Only the back framebuffer array differs: every other field is the same, and so is every pixel of the
front array. -/
abbrev State.onlyBackPixels (s t : State) : Prop :=
  t = { s with video := { s.video with fb0 := t.video.fb0, fb1 := t.video.fb1 } } ∧
    ∀ o, t.video.shownPixel o = s.video.shownPixel o

/-- Only the back palette table differs: every other field is the same, and so is every entry of the front
table. -/
abbrev State.onlyBackEntries (s t : State) : Prop :=
  t = { s with video := { s.video with pal0 := t.video.pal0, pal1 := t.video.pal1 } } ∧
    ∀ i, t.video.shownEntry i = s.video.shownEntry i

/-- Only the back sample array differs. -/
abbrev State.onlyBackSamples (s t : State) : Prop :=
  t = { s with audio := { s.audio with abuf0 := t.audio.abuf0, abuf1 := t.audio.abuf1 } } ∧
    ∀ i, t.audio.frontSample i = s.audio.frontSample i

/-- Only the latch differs: the video domain has faulted with a cause (R291). -/
def State.videoFault (s : State) (k : Cause) : State :=
  { s with video := { s.video with fault := ⟨true, k.code⟩ } }

/-- The audio domain has faulted with a cause: the latch is set and an open fill window is closed with
silence (R292, R270). -/
def State.audioFault (s : State) (k : Cause) : State :=
  if s.audio.fillActive then
    { s with
      audio :=
        { s.audio with
          fault := ⟨true, k.code⟩
          fillActive := false
          span := List.replicate s.audio.fillN.toNat 0 ++ s.audio.span.drop s.audio.fillN.toNat
          events := s.audio.events ++ [.deliver (List.replicate s.audio.fillN.toNat 0)] } }
  else { s with audio := { s.audio with fault := ⟨true, k.code⟩ } }

/-- Only voice `v` differs: it has become `vc`. -/
def State.withVoice (s : State) (v : Byte) (vc : Voice) : State :=
  { s with audio := { s.audio with voices := s.audio.voices.set v.toNat vc } }

/-- One real has been responded on ARSP (R112). -/
def State.withArsp (s : State) (r : FReal) : State :=
  { s with
    audio :=
      { s.audio with
        arsp := s.audio.arsp ++ realWords s.cfg.fmt r
        events := s.audio.events ++ [.arsp (realWords s.cfg.fmt r)] } }

/-! ### Reset (R62) -/

/-- The video domain at the values of R62, its ports empty (R331). -/
def VideoState.atReset (v : VideoState) : Prop :=
  (∀ o, memRead 0 v.fb0 o = 0 ∧ memRead 0 v.fb1 o = 0) ∧ v.fbsel = false ∧
    (∀ i, memRead RGB.black v.pal0 i = ⟨0, 0, 0⟩ ∧ memRead RGB.black v.pal1 i = ⟨0, 0, 0⟩) ∧
    v.palsel = false ∧ v.phase = .stopped ∧ v.line = 0 ∧ v.deadline = 0 ∧ v.tpf = 0 ∧ v.quit = false ∧
    v.fault = ⟨false, 0⟩ ∧ v.vcmd = [] ∧ v.vrsp = []

/-- A voice at the values of R62; `NOISE` is some value of [-1, 1]. -/
def Voice.atReset (f : Fmt) (vc : Voice) : Prop :=
  vc.osc.phase = 0 ∧ vc.osc.freq.written = false ∧ vc.osc.detune.written = false ∧
    vc.osc.wave.written = false ∧ inUnit f vc.osc.noise = true ∧
    vc.env.stage = .idle ∧ vc.env.value = 0 ∧ vc.env.relstart = 0 ∧ vc.env.attack.written = false ∧
    vc.env.decay.written = false ∧ vc.env.sustain.written = false ∧ vc.env.release.written = false ∧
    vc.flt.ftype.written = false ∧ vc.flt.cutoff.written = false ∧ vc.flt.res.written = false ∧
    vc.flt.dirty = true ∧ vc.flt.x1 = 0 ∧ vc.flt.x2 = 0 ∧ vc.flt.y1 = 0 ∧ vc.flt.y2 = 0

/-- The audio domain at the values of R62, its ports empty (R331); no voice, sample or slot when `SR = 0` (R12).
-/
def AudioState.atReset (c : Config) (a : AudioState) : Prop :=
  (if c.sr = 0 then a = .absent a.draws a.events
    else a.voices.length = c.nvoice ∧ a.span.length = c.abufSize) ∧
    (∀ vc ∈ a.voices, vc.atReset c.fmt) ∧
    (∀ i, memRead 0 a.abuf0 i = 0 ∧ memRead 0 a.abuf1 i = 0) ∧ a.asel = false ∧ a.aready = false ∧
    a.fillActive = false ∧ a.fillN = 0 ∧ a.fault = ⟨false, 0⟩ ∧ a.acmd = [] ∧ a.arsp = []

end Sys2Proof.Machine
end

