-- ==== Sys2Proof/Certificates/Slice0/Obligations.lean ====
section
/-! DEFINITION. The statements for the provers. `OBLIGATIONS.json` lists each with its rules. -/

open Sys2Proof Sys2Proof.Machine

/-! ### Encoding (`30_encoding.md`) -/

/-- A few packets, their words written out from R102 to R110, read as the instructions they stand for. -/
def Obligations.SampleWordsDecode : Prop :=
  decodeVideo .binary32 [0x01000005, 0x00010001] = .packet (.putpixel 5 1 1) [] ∧
  decodeVideo .binary32 [0x03000009, 0x0002FFFF, 0x00000003] = .packet (.hline 9 (-1) 2 3) [] ∧
  decodeVideo .binary32 [0x06000002, 0x00000003, 0x00000004, 0x04030201] =
    .packet (.blit 2 3 0 [1, 2, 3, 4]) [] ∧
  decodeVideo .binary32 [0x12000010, 0x00000005, 0x00000000, 0x00FF8040] =
    .packet (.setgrad 16 5 ⟨0, 0, 0⟩ ⟨255, 128, 64⟩) [] ∧
  decodeVideo .binary32 [0x13008010, 0x00000005] = .packet (.rotpal 16 true 5) [] ∧
  decodeVideo .binary32 [0x2000003C, 0x21000000] = .packet (.run 60) [0x21000000] ∧
  decodeAudio .binary32 [0x42000045] = .packet (.oscnote 0 69) [] ∧
  decodeAudio .binary32 [0x54000000, 0x3E800000] = .packet (.envatk 0 0x3E800000) [] ∧
  decodeAudio .binary64 [0x43030000, 0x00000001, 0x40000000] = .packet (.oscfreq 3 0x4000000000000001) [] ∧
  decodeAudio .binary32 [0x70000002, 0x0000FF9C] = .packet (.spanwr 2 (-100)) [] ∧
  decodeAudio .binary32 [0x71000001] = .packet (.fillret true) []

/-- Every instruction of either port, with every operand, reads back from its packet's words, whatever follows
them (R101 to R110). -/
def Obligations.PacketsRoundTrip : Prop :=
  ∀ (f : Fmt) (i : Instr) (rest : List Word), i.wf f = true →
    (i.port = .vcmd → decodeVideo f (encode f i ++ rest) = .packet i rest) ∧
    (i.port = .acmd → decodeAudio f (encode f i ++ rest) = .packet i rest)

/-- The words a port reads as a packet are that instruction's encoding and no others: a reserved bit is never
ignored (R113). Words of the same opcode and length as a packet's, the length field of a BLIT the same too, that
are no instruction's encoding (a reserved header bit, a must-be-zero operand field or a pad byte is set) are
read as an illegal packet, taken whole (notes/assumptions/13). -/
def Obligations.PacketsHaveOneEncoding : Prop :=
  ∀ (f : Fmt) (ws : List Word) (i : Instr) (rest : List Word),
    (decodeVideo f ws = .packet i rest → i.port = .vcmd ∧ i.wf f = true ∧ ws = encode f i ++ rest) ∧
    (decodeAudio f ws = .packet i rest → i.port = .acmd ∧ i.wf f = true ∧ ws = encode f i ++ rest) ∧
    (i.wf f = true → ws.length = (encode f i).length →
      hdrOpc (ws.headD 0) = hdrOpc ((encode f i).headD 0) →
      (hdrOpc (ws.headD 0) = 0x06 → blen (ws.getD 2 0) = blen ((encode f i).getD 2 0)) →
      (∀ j : Instr, j.wf f = true → encode f j ≠ ws) →
      (i.port = .vcmd → ∃ why, decodeVideo f (ws ++ rest) = .illegal why rest) ∧
      (i.port = .acmd → ∃ why, decodeAudio f (ws ++ rest) = .illegal why rest))

/-- R111, R113: a header whose opcode is not the port's is no legal packet, and whatever words the decoder reads as
no legal packet (PacketsHaveOneEncoding says which others) latch ILLEGAL in the domain of the port they arrived on.
Else only words from the front of the port go (how many: notes/assumptions/13), and an open fill window is closed;
the other domain is not affected. -/
def Obligations.IllegalPacketsFault : Prop :=
  (∀ (f : Fmt) (h : Word) (ws : List Word),
    (hdrOpc h ∉ videoOpcodes → ∃ why rest, decodeVideo f (h :: ws) = .illegal why rest) ∧
    (hdrOpc h ∉ audioOpcodes → ∃ why rest, decodeAudio f (h :: ws) = .illegal why rest)) ∧
  (∀ (s : State) (why : DecodeError) (rest : List Word), s.inReset = false →
    (s.nextMove.1 = .video → s.canPaint → decodeVideo s.cfg.fmt s.video.vcmd = .illegal why rest →
      rest <:+ s.video.vcmd ∧ rest ≠ s.video.vcmd ∧
      step s = .next
        { s.nextMove.2 with video := { s.video with vcmd := rest, fault := ⟨true, Cause.illegal.code⟩ } }) ∧
    (s.nextMove.1 = .audio → s.audioRuns → decodeAudio s.cfg.fmt s.audio.acmd = .illegal why rest →
      rest <:+ s.audio.acmd ∧ rest ≠ s.audio.acmd ∧
      step s = .next
        { s.nextMove.2 with audio := { (s.audioFault .illegal).audio with acmd := rest } }))

/-! ### The step (`00_scope.md` R18, `42_raster_sequencer.md`) -/

/-- When the video host's words at VCMD, or the producer's words at ACMD, decode to an instruction, the
domain's turn is `exec` of it, on the state with the packet's words taken from the port. -/
def Obligations.StepRunsDecodedPackets : Prop :=
  ∀ (s : State) (i : Instr) (rest : List Word), s.inReset = false →
    (s.nextMove.1 = .video → s.canPaint → decodeVideo s.cfg.fmt s.video.vcmd = .packet i rest →
      step s = exec i { s.nextMove.2 with video := { s.video with vcmd := rest } }) ∧
    (s.nextMove.1 = .audio → s.audioRuns → decodeAudio s.cfg.fmt s.audio.acmd = .packet i rest →
      step s = exec i { s.nextMove.2 with audio := { s.audio with acmd := rest } })

/-- In FLIP to PACE the video turn is the sequencer's step, VCMD being held; in a hook window with no whole
packet at the port it is the window's wait, and in STOPPED nothing; the audio turn with no whole packet at the
port is nothing, the words waiting for the rest (R101); a backend's request is PULL (R170, R173, R175 to R181,
R266). -/
def Obligations.StepRunsSequencerAndPull : Prop :=
  ∀ (s : State), s.inReset = false →
    (s.nextMove.1 = .video → s.video.fault.valid = false →
      (s.video.phase = .flip → step s = exec .seqFlip s.nextMove.2) ∧
      (s.video.phase = .commit → step s = exec .seqCommit s.nextMove.2) ∧
      (s.video.phase = .present → step s = exec .seqPresent s.nextMove.2) ∧
      (s.video.phase = .pace → step s = exec .seqPace s.nextMove.2) ∧
      (decodeVideo s.cfg.fmt s.video.vcmd = .short →
        (s.video.phase = .framedraw → step s = exec .seqFramedraw s.nextMove.2) ∧
        (s.video.phase = .scanline → step s = exec .seqScanline s.nextMove.2) ∧
        (s.video.phase = .stopped → step s = .next s.nextMove.2))) ∧
    (s.nextMove.1 = .audio → s.audioRuns → decodeAudio s.cfg.fmt s.audio.acmd = .short →
      step s = .next s.nextMove.2) ∧
    (∀ n, s.nextMove.1 = .pull n → step s = exec (.pull n) s.nextMove.2)

/-- The inputs land, each in its place and nothing else: `quit_req` sets `SEQ.QUIT` in any phase (R182),
`present_ready` and `NOW` follow their sources (R36), words are put at the end of a port and responses taken from
the front (R100, R112), `reset` can be asserted in any state (R330). Only reset clears `SEQ.QUIT`; `NOW` never
decreases; the level of `reset` follows its source only. PULL is StepRunsSequencerAndPull's, what the release of
`reset` does is ReleaseOfResetResets's. That a port is a list, that an input lands during a reset, and that
`reset` is a level which moves of its own set, is the model's choice (notes/assumptions/15, 16, 26). -/
def Obligations.InputsLand : Prop :=
  (∀ s : State,
    (s.nextMove.1 = .quitReq →
      step s = .next { s.nextMove.2 with video := { s.video with quit := true } }) ∧
    (∀ level, s.nextMove.1 = .presentReady level →
      step s = .next { s.nextMove.2 with video := { s.video with presentReady := level } }) ∧
    (∀ n : BitVec 64, s.nextMove.1 = .tick n → s.video.now.toNat + n.toNat < 2 ^ 64 →
      ∃ now, step s = .next { s.nextMove.2 with video := { s.video with now := now } } ∧
        now.toNat = s.video.now.toNat + n.toNat) ∧
    (∀ w, s.nextMove.1 = .vcmd w →
      step s = .next { s.nextMove.2 with video := { s.video with vcmd := s.video.vcmd ++ [w] } }) ∧
    (∀ w, s.nextMove.1 = .acmd w → s.cfg.sr ≠ 0 →
      step s = .next { s.nextMove.2 with audio := { s.audio with acmd := s.audio.acmd ++ [w] } }) ∧
    (s.nextMove.1 = .takeVrsp →
      step s = .next { s.nextMove.2 with video := { s.video with vrsp := s.video.vrsp.tail } }) ∧
    (s.nextMove.1 = .takeArsp → s.cfg.sr ≠ 0 →
      step s = .next { s.nextMove.2 with audio := { s.audio with arsp := s.audio.arsp.tail } }) ∧
    (s.nextMove.1 = .reset true → step s = .next { s.nextMove.2 with inReset := true }) ∧
    (s.nextMove.1 = .reset false → s.inReset = false → step s = .next s.nextMove.2)) ∧
  (∀ s t : State, step s = .next t → t.inReset ≠ s.inReset → s.nextMove.1 = .reset t.inReset) ∧
  (∀ s t : State, s.releasesReset = false → s.video.quit = true → step s = .next t → t.video.quit = true) ∧
  (∀ s t : State, step s = .next t → s.video.now.toNat ≤ t.video.now.toNat)

/-- R330: while `reset` is asserted no packet, no PULL and no sequencer step is taken, and nothing is
emitted. -/
def Obligations.ResetHoldsTheBlock : Prop :=
  ∀ s t : State, s.inReset = true → step s = .next t →
    (s.nextMove.1 = .video ∨ s.nextMove.1 = .audio ∨ (∃ n, s.nextMove.1 = .pull n) → t = s.nextMove.2) ∧
    t.video.events = s.video.events ∧ t.audio.events = s.audio.events

/-- No step changes the configuration (R10). -/
def Obligations.ConfigurationIsFixed : Prop :=
  ∀ s t : State, step s = .next t → t.cfg = s.cfg

/-! ### Reset (`10_state.md` R62, `70_reset_and_hazards.md` R331) -/

/-- R62: right after reset every piece of state has the value of the table. -/
def Obligations.ResetValues : Prop :=
  ∀ c : Config, (State.resetIn c).video.atReset ∧ (State.resetIn c).audio.atReset c

/-- R331: the release of `reset`, in any state, gives every piece of state its reset value, discards the words
at the ports, changes no parameter and emits nothing. -/
def Obligations.ReleaseOfResetResets : Prop :=
  ∀ s : State, s.inReset = true → s.nextMove.1 = .reset false →
    ∃ t, step s = .next t ∧ t.video.atReset ∧ t.audio.atReset s.cfg ∧ t.cfg = s.cfg ∧ t.inReset = false ∧
      t.video.events = s.video.events ∧ t.audio.events = s.audio.events

/-- Every invariant below holds right after reset. -/
def Obligations.InvariantsHoldAtReset : Prop :=
  ∀ c : Config, c.wf = true →
    (State.resetIn c).memoriesOk = true ∧ (State.resetIn c).sequencerOk = true ∧
    (State.resetIn c).adapterOk = true ∧ (State.resetIn c).traceOk = true ∧
    (State.resetIn c).oscillatorsOk = true ∧ (State.resetIn c).envelopesOk = true ∧
    (State.resetIn c).filtersOk = true

/-! ### Invariants that every step keeps -/

/-- Every memory keeps its canonical form and its size (R26, R28, R46, R47). -/
def Obligations.StepKeepsMemories : Prop :=
  ∀ s t : State, step s = .next t → s.memoriesOk = true → t.memoriesOk = true

/-- `SEQ.LINE < H`, `SEQ.DEADLINE ≤ NOW`, `SEQ.TPF ≤ TICK_HZ`, and the latch's code is one of R293's (R32,
R33, R37). -/
def Obligations.StepKeepsSequencer : Prop :=
  ∀ s t : State, step s = .next t → s.sequencerOk = true → t.sequencerOk = true

/-- A fill window is open only in INLINE mode and in an unfaulted audio domain; there are `NVOICE` voices; the
latch's code is one of R293's (R47, R48, R270). -/
def Obligations.StepKeepsAdapter : Prop :=
  ∀ s t : State, step s = .next t → s.adapterOk = true → t.adapterOk = true

/-- R184's order of the video events, over the whole record: each frame is `HOOKREQ(FRAME)`, then lines 0 to
H - 1 ascending, then `PRESENT`. -/
def Obligations.StepKeepsEventOrder : Prop :=
  ∀ s t : State, s.cfg.wf = true → s.releasesReset = false → step s = .next t → s.traceOk = true →
    t.traceOk = true

/-- `0 ≤ PHASE < 1` (R41), `NOISE` in [-1, 1], written oscillator parameters finite (R40). -/
def Obligations.StepKeepsOscillators : Prop :=
  ∀ s t : State, step s = .next t → s.oscillatorsOk = true → t.oscillatorsOk = true

/-- `0 ≤ VALUE ≤ 1` (R43), `RELSTART` and a written sustain level in [0, 1], written times finite (R42). -/
def Obligations.StepKeepsEnvelopes : Prop :=
  ∀ s t : State, step s = .next t → s.envelopesOk = true → t.envelopesOk = true

/-- Written filter parameters and the delay line are finite (R44, R242). -/
def Obligations.StepKeepsFilters : Prop :=
  ∀ s t : State, step s = .next t → s.filtersOk = true → t.filtersOk = true

/-! ### Rules of the whole machine -/

/-- R85: no step writes an element of an array or table that is front; so while its role bit stays, the front
stays as it is. A reset is no step of the block. -/
def Obligations.FrontIsNeverWritten : Prop :=
  ∀ s t : State, s.releasesReset = false → step s = .next t →
    (∀ o, memRead 0 (if s.video.fbsel then t.video.fb1 else t.video.fb0) o = s.video.shownPixel o) ∧
    (∀ i, memRead RGB.black (if s.video.palsel then t.video.pal1 else t.video.pal0) i =
      s.video.shownEntry i) ∧
    (∀ i, memRead 0 (if s.audio.asel then t.audio.abuf1 else t.audio.abuf0) i = s.audio.frontSample i) ∧
    (t.video.fbsel = s.video.fbsel → ∀ o, t.video.shownPixel o = s.video.shownPixel o) ∧
    (t.video.palsel = s.video.palsel → ∀ i, t.video.shownEntry i = s.video.shownEntry i)

/-- R50: the role bits of the video domain change only in the sequencer's FLIP and COMMIT, or by the host's FLIP
and COMMIT packets in STOPPED; the audio one only when the adapter answers a PULL with a ready back array. -/
def Obligations.RolesChangeOnlyAtExchanges : Prop :=
  ∀ s t : State, s.releasesReset = false → step s = .next t →
    (t.video.fbsel ≠ s.video.fbsel →
      s.nextMove.1 = .video ∧ (s.video.phase = .flip ∨
        (s.video.phase = .stopped ∧ ∃ rest, decodeVideo s.cfg.fmt s.video.vcmd = .packet .flip rest))) ∧
    (t.video.palsel ≠ s.video.palsel →
      s.nextMove.1 = .video ∧ (s.video.phase = .commit ∨
        (s.video.phase = .stopped ∧ ∃ rest, decodeVideo s.cfg.fmt s.video.vcmd = .packet .commit rest))) ∧
    (t.audio.asel ≠ s.audio.asel →
      (∃ n, s.nextMove.1 = .pull n) ∧ s.cfg.audioMode = .buffered ∧ s.audio.aready = true)

/-- R20: a move of one domain reads nothing of the other and writes nothing of it. -/
def Obligations.DomainsShareNothing : Prop :=
  ∀ s t : State, step s = .next t →
    (s.nextMove.1.ofVideo = true → t.audio = s.audio ∧
      ∀ a : AudioState, step { s with audio := a } = .next { t with audio := a }) ∧
    (s.nextMove.1.ofAudio = true → t.video = s.video ∧
      ∀ v : VideoState, step { s with video := v } = .next { t with video := v })

/-- R83: a move of the video domain and a move of the audio domain may be interleaved in either order; the
machine comes to the same state. -/
def Obligations.DomainsCommute : Prop :=
  ∀ (s u : State) (mv ma : Move) (rest : List Move), mv.ofVideo = true → ma.ofAudio = true →
    (Sys2Proof.core.run 2 { s with agenda := mv :: ma :: rest } = .next u ↔
      Sys2Proof.core.run 2 { s with agenda := ma :: mv :: rest } = .next u)

/-- R170: every transition of the pair (`SEQ.PHASE`, `SEQ.LINE`) is one of the table's, with its event. Where a
row names no line, the line is 0 in FRAMEDRAW (R172) and else stays (R174). -/
def Obligations.SequencerTransitions : Prop :=
  ∀ s t : State, s.releasesReset = false → step s = .next t →
    (t.video.phase = s.video.phase ∧ t.video.line = s.video.line) ∨
    (s.nextMove.1 = .video ∧
      ((s.video.phase = .stopped ∧ t.video.phase = .framedraw ∧ t.video.line = 0 ∧ s.video.quit = false ∧
          ∃ fps rest, decodeVideo s.cfg.fmt s.video.vcmd = .packet (.run fps) rest) ∨
       (s.video.phase = .framedraw ∧ t.video.phase = .scanline ∧ t.video.line = 0 ∧
          ∃ rest, decodeVideo s.cfg.fmt s.video.vcmd = .packet .hookret rest) ∨
       (s.video.phase = .scanline ∧ s.video.line.toNat + 1 < s.cfg.h ∧ t.video.phase = .scanline ∧
          t.video.line = s.video.line + 1 ∧
          ∃ rest, decodeVideo s.cfg.fmt s.video.vcmd = .packet .hookret rest) ∨
       (s.video.phase = .scanline ∧ s.video.line.toNat + 1 = s.cfg.h ∧ t.video.phase = .flip ∧
          t.video.line = s.video.line ∧
          ∃ rest, decodeVideo s.cfg.fmt s.video.vcmd = .packet .hookret rest) ∨
       (s.video.phase = .flip ∧ t.video.phase = .commit ∧ t.video.line = s.video.line) ∨
       (s.video.phase = .commit ∧ t.video.phase = .present ∧ t.video.line = s.video.line) ∨
       (s.video.phase = .present ∧ t.video.phase = .pace ∧ t.video.line = s.video.line ∧
          s.video.presentReady = true) ∨
       (s.video.phase = .pace ∧ t.video.phase = .framedraw ∧ t.video.line = 0 ∧ s.video.quit = false ∧
          s.video.deadline.toNat + s.video.tpf.toNat ≤ s.video.now.toNat) ∨
       (s.video.phase = .pace ∧ t.video.phase = .stopped ∧ t.video.line = s.video.line ∧
          s.video.quit = true ∧
          s.video.deadline.toNat + s.video.tpf.toNat ≤ s.video.now.toNat)))

/-- The table of R176, for a packet already taken from its port. One that the phase refuses raises the table's
fault and changes nothing else; one that the phase does not refuse is not refused by it (it can then fault only
by its operands; what it does is each packet's own statement). That a packet of the held phases leaves the
state as it is is the model's choice (notes/assumptions/19): `step` never takes one then, it waits at the port
(StepRunsSequencerAndPull). -/
def Obligations.AccessRights : Prop :=
  ∀ (s : State) (i : Instr) (c : VClass), vclassOf i = some c → s.video.fault.valid = false →
    (s.video.phase = .stopped →
      (c = .hookret → exec i s = .next (s.videoFault .access)) ∧
      (c ≠ .hookret → ∃ t, exec i s = .next t ∧
        (t.video.fault = s.video.fault ∨ t = s.videoFault .badparam ∨ t = s.videoFault .ubRange))) ∧
    (s.video.phase = .framedraw →
      (c = .exchange → exec i s = .next (s.videoFault .ownership)) ∧
      (c = .run → exec i s = .next (s.videoFault .access)) ∧
      (c = .framebuffer ∨ c = .palette ∨ c = .hookret → ∃ t, exec i s = .next t ∧
        (t.video.fault = s.video.fault ∨ t = s.videoFault .badparam ∨ t = s.videoFault .ubRange))) ∧
    (s.video.phase = .scanline →
      (c = .exchange → exec i s = .next (s.videoFault .ownership)) ∧
      (c = .framebuffer ∨ c = .run → exec i s = .next (s.videoFault .access)) ∧
      (c = .palette ∨ c = .hookret → ∃ t, exec i s = .next t ∧
        (t.video.fault = s.video.fault ∨ t = s.videoFault .badparam ∨ t = s.videoFault .ubRange))) ∧
    (s.video.phase = .flip ∨ s.video.phase = .commit ∨ s.video.phase = .present ∨ s.video.phase = .pace →
      exec i s = .next s)

/-- R291: a packet that faults changes the latch and nothing else; a sequencer step never faults; a halted
domain moves no more: what still changes are its inputs and the responses the host takes. -/
def Obligations.VideoFaultHalts : Prop :=
  (∀ (s t : State) (i : Instr), i.port = .vcmd → s.video.fault.valid = false → exec i s = .next t →
    t.video.fault.valid = true → ∃ k : Cause, t = s.videoFault k) ∧
  (∀ (s t : State) (i : Instr), i.port = .seq → exec i s = .next t → t.video.fault = s.video.fault) ∧
  (∀ s t : State, s.releasesReset = false → s.video.fault.valid = true → step s = .next t →
    t.video = { s.video with
      now := t.video.now, quit := t.video.quit, presentReady := t.video.presentReady
      vcmd := t.video.vcmd, vrsp := t.video.vrsp } ∧
    s.video.vcmd <+: t.video.vcmd ∧ t.video.vrsp <:+ s.video.vrsp)

/-- R292, R270: a packet that faults sets the latch, closes an open fill with silence and changes nothing
else; from then on every PULL is answered with silence, with no request and no swap, and no voice changes. -/
def Obligations.AudioFaultSilences : Prop :=
  (∀ (s t : State) (i : Instr), i.port = .acmd → s.audioRuns → exec i s = .next t →
    t.audio.fault.valid = true → ∃ k : Cause, t = s.audioFault k) ∧
  (∀ (s : State) (n : BitVec 16), s.cfg.sr ≠ 0 → s.audio.fault.valid = true → n.toNat ≤ s.cfg.abufSize →
    ∃ t, exec (.pull n) s = .next t ∧ t.video = s.video ∧
      t.audio = { s.audio with
        span := t.audio.span, fillN := t.audio.fillN
        events := s.audio.events ++ [.deliver (List.replicate n.toNat 0)] }) ∧
  (∀ s t : State, s.releasesReset = false → s.audio.fault.valid = true → step s = .next t →
    t.audio = { s.audio with
      span := t.audio.span, fillN := t.audio.fillN, events := t.audio.events
      acmd := t.audio.acmd, arsp := t.audio.arsp } ∧
    s.audio.acmd <+: t.audio.acmd ∧ t.audio.arsp <:+ s.audio.arsp)

/-- R229: every change of an envelope's stage is an edge of the graph, with its cause and its condition. -/
def Obligations.StageGraph : Prop :=
  ∀ (s t : State) (i : Instr) (u : Nat) (a b : Voice), exec i s = .next t →
    s.audio.voices[u]? = some a → t.audio.voices[u]? = some b → b.env.stage ≠ a.env.stage →
    ∃ v : Byte, v.toNat = u ∧
      ((i = .envon v ∧ b.env.stage = .attack ∧ b.env.value = a.env.value) ∨
       (i = .envoff v ∧ a.env.stage ≠ .idle ∧ b.env.stage = .release) ∨
       (i = .envrst v ∧ b.env.stage = .idle) ∨
       ((i = .envnext v ∨ i = .voice v) ∧
         ((a.env.stage = .attack ∧ b.env.stage = .decay ∧ b.env.value = fone s.cfg.fmt) ∨
          (a.env.stage = .decay ∧ b.env.stage = .sustain ∧ b.env.value = a.env.sustain.value) ∨
          (a.env.stage = .release ∧ b.env.stage = .idle ∧ b.env.value = fzero))))

/-! ### The sequencer (`42_raster_sequencer.md`) -/

/-- R171, R172: RUN. -/
def Obligations.RunStartsTheLoop : Prop :=
  ∀ (s : State) (fps : BitVec 16),
    (s.isStopped → fps = 0 → exec (.run fps) s = .next (s.videoFault .badparam)) ∧
    (s.isStopped → fps ≠ 0 → s.video.quit = false →
      exec (.run fps) s = .next
        { s with
          video :=
            { s.video with
              tpf := BitVec.ofNat 64 (s.cfg.tickHz / fps.toNat)
              deadline := s.video.now
              line := 0
              phase := .framedraw
              events := s.video.events ++ [.hookreqFrame] } }) ∧
    (s.isStopped → fps ≠ 0 → s.video.quit = true →
      exec (.run fps) s = .next
        { s with
          video :=
            { s.video with
              tpf := BitVec.ofNat 64 (s.cfg.tickHz / fps.toNat)
              deadline := s.video.now
              phase := .stopped } }) ∧
    (s.inVideoHook → exec (.run fps) s = .next (s.videoFault .access))

/-- R174: HOOKRET. -/
def Obligations.HookretReturns : Prop :=
  ∀ s : State, s.video.fault.valid = false →
    (s.video.phase = .framedraw →
      exec .hookret s = .next
        { s with
          video :=
            { s.video with
              phase := .scanline, line := 0, events := s.video.events ++ [.hookreqScanline 0] } }) ∧
    (s.video.phase = .scanline → s.video.line.toNat + 1 < s.cfg.h →
      exec .hookret s = .next
        { s with
          video :=
            { s.video with
              line := s.video.line + 1
              events := s.video.events ++ [.hookreqScanline (s.video.line + 1)] } }) ∧
    (s.video.phase = .scanline → s.video.line.toNat + 1 = s.cfg.h →
      exec .hookret s = .next { s with video := { s.video with phase := .flip } }) ∧
    (s.video.phase = .stopped → exec .hookret s = .next (s.videoFault .access))

/-- R173, R175, R177, R178: in a hook window the sequencer takes no step of its own; FLIP and COMMIT exchange
the roles, copying nothing, and go on. -/
def Obligations.SequencerWaitsAndExchanges : Prop :=
  ∀ s : State, s.video.fault.valid = false →
    (s.video.phase = .framedraw → exec .seqFramedraw s = .next s) ∧
    (s.video.phase = .scanline → exec .seqScanline s = .next s) ∧
    (s.video.phase = .flip →
      exec .seqFlip s = .next { s with video := { s.video with fbsel := !s.video.fbsel, phase := .commit } }) ∧
    (s.video.phase = .commit →
      exec .seqCommit s = .next
        { s with video := { s.video with palsel := !s.video.palsel, phase := .present } })

/-- R180, R186: PRESENT hands over the front array and the front table; the displayed picture is the table at
the array's values; without `present_ready` the step does not happen. -/
def Obligations.PresentHandsOverTheFront : Prop :=
  ∀ s : State, s.video.fault.valid = false → s.video.phase = .present →
    (s.video.presentReady = true →
      ∃ fb pal,
        exec .seqPresent s = .next
          { s with video := { s.video with phase := .pace, events := s.video.events ++ [.present fb pal] } } ∧
        fb.length = s.cfg.w * s.cfg.h ∧ pal.length = 256 ∧
        (∀ o < s.cfg.w * s.cfg.h, fb[o]? = some (s.video.shownPixel o)) ∧
        (∀ i < 256, pal[i]? = some (s.video.shownEntry i)) ∧
        (∀ o < s.cfg.w * s.cfg.h,
          (picture fb pal)[o]? = some (s.video.shownEntry (s.video.shownPixel o).toNat))) ∧
    (s.video.presentReady = false → exec .seqPresent s = .next s)

/-- R181, R172: PACE. -/
def Obligations.PaceAdvancesTheDeadline : Prop :=
  ∀ s : State, s.video.fault.valid = false → s.video.phase = .pace →
    (s.video.deadline.toNat + s.video.tpf.toNat ≤ s.video.now.toNat → s.video.quit = false →
      exec .seqPace s = .next
        { s with
          video :=
            { s.video with
              deadline := s.video.deadline + s.video.tpf
              line := 0
              phase := .framedraw
              events := s.video.events ++ [.hookreqFrame] } }) ∧
    (s.video.deadline.toNat + s.video.tpf.toNat ≤ s.video.now.toNat → s.video.quit = true →
      exec .seqPace s = .next
        { s with video := { s.video with deadline := s.video.deadline + s.video.tpf, phase := .stopped } }) ∧
    (s.video.now.toNat < s.video.deadline.toNat + s.video.tpf.toNat → exec .seqPace s = .next s)

/-! ### The framebuffer (`40_framebuffer.md`) -/

/-- R131: PUTPIXEL writes one element of the back array, and nothing else; outside the framebuffer it is
UB_RANGE. -/
def Obligations.PutpixelWritesOnePixel : Prop :=
  ∀ (s : State) (idx : Byte) (x y : BitVec 16),
    (s.canDraw → 0 ≤ x.toInt → x.toInt < s.cfg.w → 0 ≤ y.toInt → y.toInt < s.cfg.h →
      ∃ t, exec (.putpixel idx x y) s = .next t ∧ s.onlyBackPixels t ∧
        ∀ o : Nat, t.video.pixel o =
          if (o : Int) = y.toInt * s.cfg.w + x.toInt then idx else s.video.pixel o) ∧
    (s.canDraw → ¬(0 ≤ x.toInt ∧ x.toInt < s.cfg.w ∧ 0 ≤ y.toInt ∧ y.toInt < s.cfg.h) →
      exec (.putpixel idx x y) s = .next (s.videoFault .ubRange)) ∧
    (s.inScanline → exec (.putpixel idx x y) s = .next (s.videoFault .access))

/-- R132: CLEAR writes every element of the back array, and nothing else. -/
def Obligations.ClearFillsTheBackArray : Prop :=
  ∀ (s : State) (idx : Byte),
    (s.canDraw →
      ∃ t, exec (.clear idx) s = .next t ∧ s.onlyBackPixels t ∧
        ∀ o, t.video.pixel o = if o < s.cfg.w * s.cfg.h then idx else s.video.pixel o) ∧
    (s.inScanline → exec (.clear idx) s = .next (s.videoFault .access))

/-- R133 to R135: HLINE, VLINE and FILLRECT draw exactly the part of the shape inside the framebuffer. -/
def Obligations.ShapesAreClipped : Prop :=
  ∀ (s : State) (idx : Byte) (x y w h : BitVec 16),
    let draws := fun (i : Instr) (inside : Int → Int → Prop) =>
      ∃ t, exec i s = .next t ∧ s.onlyBackPixels t ∧
        (∀ px py : Nat, px < s.cfg.w → py < s.cfg.h →
          (inside px py → t.video.pixel (py * s.cfg.w + px) = idx) ∧
          (¬inside px py → t.video.pixel (py * s.cfg.w + px) = s.video.pixel (py * s.cfg.w + px))) ∧
        (∀ o, s.cfg.w * s.cfg.h ≤ o → t.video.pixel o = s.video.pixel o)
    (s.canDraw →
      draws (.hline idx x y w) (fun px py => py = y.toInt ∧ x.toInt ≤ px ∧ px < x.toInt + w.toInt) ∧
      draws (.vline idx x y h) (fun px py => px = x.toInt ∧ y.toInt ≤ py ∧ py < y.toInt + h.toInt) ∧
      draws (.fillrect idx x y w h) (fun px py =>
        x.toInt ≤ px ∧ px < x.toInt + w.toInt ∧ y.toInt ≤ py ∧ py < y.toInt + h.toInt)) ∧
    (s.inScanline → exec (.hline idx x y w) s = .next (s.videoFault .access) ∧
      exec (.vline idx x y h) s = .next (s.videoFault .access) ∧
      exec (.fillrect idx x y w h) s = .next (s.videoFault .access))

/-- R136: BLIT copies the source rectangle, clipped; the bytes that make no full row are ignored; a source
width of 0 is BADPARAM. -/
def Obligations.BlitCopiesTheRectangle : Prop :=
  ∀ (s : State) (srcw dx dy : BitVec 16) (bytes : List Byte),
    (s.canDraw → srcw ≠ 0 →
      ∃ t, exec (.blit srcw dx dy bytes) s = .next t ∧ s.onlyBackPixels t ∧
        (∀ px py : Nat, px < s.cfg.w → py < s.cfg.h →
          (∀ r c : Nat, r < bytes.length / srcw.toNat → c < srcw.toNat → (px : Int) = dx.toInt + c →
            (py : Int) = dy.toInt + r →
            some (t.video.pixel (py * s.cfg.w + px)) = bytes[r * srcw.toNat + c]?) ∧
          ((¬∃ r c : Nat, r < bytes.length / srcw.toNat ∧ c < srcw.toNat ∧ (px : Int) = dx.toInt + c ∧
            (py : Int) = dy.toInt + r) →
            t.video.pixel (py * s.cfg.w + px) = s.video.pixel (py * s.cfg.w + px))) ∧
        (∀ o, s.cfg.w * s.cfg.h ≤ o → t.video.pixel o = s.video.pixel o)) ∧
    (s.canDraw → srcw = 0 → exec (.blit srcw dx dy bytes) s = .next (s.videoFault .badparam)) ∧
    (s.inScanline → exec (.blit srcw dx dy bytes) s = .next (s.videoFault .access))

/-- The clipping commands are the loops of plots in which R133 to R136 write them, pixel after pixel; the
model draws them by a sweep over the framebuffer. -/
def Obligations.ClippedDrawingIsThePlotLoop : Prop :=
  ∀ (s : State) (idx : Byte) (x y w h : BitVec 16) (bytes : List Byte), s.canDraw →
    memWf 0 s.video.fbBack = true →
    exec (.hline idx x y w) s = .next
      { s with video := s.video.plotLoop s.cfg (fun i => (x.toInt + i, y.toInt, idx)) w.toInt.toNat } ∧
    exec (.vline idx x y h) s = .next
      { s with video := s.video.plotLoop s.cfg (fun i => (x.toInt, y.toInt + i, idx)) h.toInt.toNat } ∧
    exec (.fillrect idx x y w h) s = .next
      { s with
        video := s.video.plotLoop s.cfg
          (fun k => (x.toInt + (k % w.toInt.toNat : Nat), y.toInt + (k / w.toInt.toNat : Nat), idx))
          (h.toInt.toNat * w.toInt.toNat) } ∧
    (w ≠ 0 →
      exec (.blit w x y bytes) s = .next
        { s with
          video := s.video.plotLoop s.cfg
            (fun k => (x.toInt + (k % w.toNat : Nat), y.toInt + (k / w.toNat : Nat), bytes.getD k 0))
            (bytes.length / w.toNat * w.toNat) })

/-- R137, R156: the FLIP and COMMIT packets exchange the roles in STOPPED, copying nothing, and are OWNERSHIP in
a hook window. -/
def Obligations.ExchangePackets : Prop :=
  ∀ s : State,
    (s.isStopped → exec .flip s = .next { s with video := { s.video with fbsel := !s.video.fbsel } }) ∧
    (s.isStopped → exec .commit s = .next { s with video := { s.video with palsel := !s.video.palsel } }) ∧
    (s.inVideoHook → exec .flip s = .next (s.videoFault .ownership) ∧
      exec .commit s = .next (s.videoFault .ownership))

/-! ### The palette (`41_palette.md`) -/

/-- R151, R152: PALWR writes one entry of the back table; PALRD responds one. -/
def Obligations.PaletteEntries : Prop :=
  ∀ (s : State) (i : Byte) (c : RGB), s.canPaint →
    (∃ t, exec (.palwr i c) s = .next t ∧ s.onlyBackEntries t ∧
      ∀ k, t.video.entry k = if k = i.toNat then c else s.video.entry k) ∧
    (∃ w : Word, exec (.palrd i) s = .next
        { s with video := { s.video with vrsp := s.video.vrsp ++ [w], events := s.video.events ++ [.vrsp w] } } ∧
      w.extractLsb' 24 8 = 0 ∧ w.extractLsb' 16 8 = (s.video.entry i.toNat).r ∧
      w.extractLsb' 8 8 = (s.video.entry i.toNat).g ∧ w.extractLsb' 0 8 = (s.video.entry i.toNat).b)

/-- R154: SETGRAD, its entries by exact rationals under the configuration's `GRAD_ROUND` (R153, R15), which is
`floor(q + 1/2)` in the decided default, and its two operand faults. That `GRAD_ROUND` is a list of cuts is the
model's choice (notes/assumptions/10); `GradientShape` says that it is any function R15 admits. -/
def Obligations.SetgradWritesTheGradient : Prop :=
  ∀ (s : State) (first : Byte) (count : BitVec 16) (c0 c1 : RGB), s.canPaint →
    (256 < count.toNat → exec (.setgrad first count c0 c1) s = .next (s.videoFault .badparam)) ∧
    (count.toNat ≤ 256 → 256 < first.toNat + count.toNat →
      exec (.setgrad first count c0 c1) s = .next (s.videoFault .ubRange)) ∧
    (count.toNat ≤ 256 → first.toNat + count.toNat ≤ 256 →
      ∃ t, exec (.setgrad first count c0 c1) s = .next t ∧ s.onlyBackEntries t ∧
        (∀ k, ¬(first.toNat ≤ k ∧ k < first.toNat + count.toNat) → t.video.entry k = s.video.entry k) ∧
        (count = 1 → t.video.entry first.toNat = c0) ∧
        (1 < count.toNat → ∀ i < count.toNat,
          let q := fun a b : Byte => (a.toNat : ℚ) + ((b.toNat : ℚ) - a.toNat) * i / (count.toNat - 1)
          let e := t.video.entry (first.toNat + i)
          (e.r.toNat : ℤ) = gradRoundAt s.cfg.gradRound (q c0.r c1.r) ∧
          (e.g.toNat : ℤ) = gradRoundAt s.cfg.gradRound (q c0.g c1.g) ∧
          (e.b.toNat : ℤ) = gradRoundAt s.cfg.gradRound (q c0.b c1.b) ∧
          (s.cfg.gradRound = [] →
            (e.r.toNat : ℤ) = ⌊q c0.r c1.r + 1 / 2⌋ ∧ (e.g.toNat : ℤ) = ⌊q c0.g c1.g + 1 / 2⌋ ∧
            (e.b.toNat : ℤ) = ⌊q c0.b c1.b + 1 / 2⌋)))

/-- Every value of the parameter `GRAD_ROUND` is a function R15 admits, and every function R15 admits is one, on
the rationals of 0 to 255 that SETGRAD reaches (at most 255 steps); the default is `floor(q + 1/2)`. Under any of
them a gradient's channel starts at `from`, ends at `to`, stays between them and is monotone (R153). That the
parameter is a list of cuts is the model's choice (notes/assumptions/10). -/
def Obligations.GradientShape : Prop :=
  (∀ g : GradRound, IsGradRound (gradRoundAt g)) ∧
  (∀ q : ℚ, gradRoundAt [] q = ⌊q + 1 / 2⌋) ∧
  (∀ r : ℚ → ℤ, IsGradRound r →
    ∃ g : GradRound, ∀ q : ℚ, 0 ≤ q → q ≤ 255 → q.den ≤ 255 → gradRoundAt g q = r q) ∧
  ∀ (g : GradRound) (f t : Byte) (n : Nat), 2 ≤ n →
    lerp g f t 0 n = f ∧ lerp g f t (n - 1) n = t ∧
    (∀ i j : Nat, i ≤ j → j < n →
      (f.toNat ≤ t.toNat → (lerp g f t i n).toNat ≤ (lerp g f t j n).toNat ∧
        f.toNat ≤ (lerp g f t i n).toNat ∧ (lerp g f t j n).toNat ≤ t.toNat) ∧
      (t.toNat ≤ f.toNat → (lerp g f t j n).toNat ≤ (lerp g f t i n).toNat ∧
        (lerp g f t i n).toNat ≤ f.toNat ∧ t.toNat ≤ (lerp g f t j n).toNat))

/-- R155: ROTPAL moves each entry of the range one place, the last (or the first) wrapping inside the range, and
its two operand faults. -/
def Obligations.RotpalRotatesTheRange : Prop :=
  ∀ (s : State) (first : Byte) (reverse : Bool) (count : BitVec 16), s.canPaint →
    (256 < count.toNat → exec (.rotpal first reverse count) s = .next (s.videoFault .badparam)) ∧
    (count.toNat ≤ 256 → 256 < first.toNat + count.toNat →
      exec (.rotpal first reverse count) s = .next (s.videoFault .ubRange)) ∧
    (count.toNat ≤ 256 → first.toNat + count.toNat ≤ 256 →
      ∃ t, exec (.rotpal first reverse count) s = .next t ∧ s.onlyBackEntries t ∧
        (∀ k, ¬(first.toNat ≤ k ∧ k < first.toNat + count.toNat) → t.video.entry k = s.video.entry k) ∧
        (∀ k < count.toNat,
          (reverse = false → t.video.entry (first.toNat + (k + 1) % count.toNat) =
            s.video.entry (first.toNat + k)) ∧
          (reverse = true → t.video.entry (first.toNat + k) =
            s.video.entry (first.toNat + (k + 1) % count.toNat))))

/-- A rotation and the opposite rotation of the same range restore every entry exactly (R155, the source's own
property). -/
def Obligations.RotationIsUndone : Prop :=
  ∀ (s : State) (first : Byte) (reverse : Bool) (count : BitVec 16), s.canPaint → count.toNat ≤ 256 →
    first.toNat + count.toNat ≤ 256 →
    ∃ t u, exec (.rotpal first reverse count) s = .next t ∧ exec (.rotpal first (!reverse) count) t = .next u ∧
      s.onlyBackEntries u ∧ ∀ k, u.video.entry k = s.video.entry k

/-- R157: PULLF2B copies the front table into the back table. -/
def Obligations.Pullf2bCopiesTheFront : Prop :=
  ∀ s : State, s.canPaint →
    ∃ t, exec .pullf2b s = .next t ∧ s.onlyBackEntries t ∧
      (∀ i < 256, t.video.entry i = s.video.shownEntry i) ∧
      (∀ i, 256 ≤ i → t.video.entry i = s.video.entry i)

/-! ### The oscillator (`43_oscillator.md`) -/

/-- R203, with R201, R204 and R205 written out: OSCNEXT, and its two faults. That `SR` is one value of the format,
rounded once, is the model's choice (notes/assumptions/9). -/
def Obligations.OscnextAdvances : Prop :=
  ∀ (s : State) (v : Byte) (vc : Voice), s.hasVoice v vc →
    let f := s.cfg.fmt
    let fr := vc.osc.freq.value
    let e := fadd f fr (fdiv f (fmul f (fdiv f vc.osc.detune.value (ofInt f 100)) fr) (ofInt f 12))
    let inc := fdiv f e (ofInt f s.cfg.sr)
    let q := fadd f vc.osc.phase inc
    let r := fsub f q (ffloor f q)
    let wraps := fle f (fone f) q || flt f q fzero
    let out := waveValue f vc.osc.wave.value vc.osc.phase vc.osc.noise
    let written := vc.osc.freq.written && vc.osc.detune.written && vc.osc.wave.written
    (written = false → exec (.oscnext v) s = .next (s.audioFault .uninit)) ∧
    (written = true → (isFinite f e && isFinite f inc) = false →
      exec (.oscnext v) s = .next (s.audioFault .badparam)) ∧
    (written = true → isFinite f e = true → isFinite f inc = true →
      ∃ noise draws,
        exec (.oscnext v) s = .next
          (((({ s with audio := { s.audio with draws := draws } } : State).withVoice v
            { vc with
              osc :=
                { vc.osc with
                  inc := inc
                  phase := if fle f (fone f) r then fzero else r
                  noise := noise } })).withArsp out) ∧
        (wraps = false → noise = vc.osc.noise ∧ draws = s.audio.draws) ∧
        (wraps = true → inUnit f noise = true))

/-- R202: the waveform function, and "every value lies in [-1, 1]" under the rounding of the format. -/
def Obligations.WaveformValues : Prop :=
  ∀ (f : Fmt) (p held : FReal),
    waveValue f .sine p held = numSin2pi f p ∧
    (flt f p (fhalf f) = true → waveValue f .square p held = ofInt f 1 ∧
      waveValue f .triangle p held = fsub f (fmul f (ofInt f 4) p) (ofInt f 1)) ∧
    (flt f p (fhalf f) = false → waveValue f .square p held = ofInt f (-1) ∧
      waveValue f .triangle p held = fsub f (ofInt f 3) (fmul f (ofInt f 4) p)) ∧
    waveValue f .sawtooth p held = fsub f (fmul f (ofInt f 2) p) (ofInt f 1) ∧
    waveValue f .noise p held = held ∧
    (fle f fzero p = true → flt f p (fone f) = true → inUnit f held = true →
      ∀ tag, inUnit f (waveValue f tag p held) = true)

/-- R207 to R211: the oscillator's set commands, each writing its register and that register's `written` bit,
and nothing else. -/
def Obligations.OscillatorCommands : Prop :=
  ∀ (s : State) (v : Byte) (vc : Voice), s.hasVoice v vc →
    exec (.oscrst v) s = .next (s.withVoice v { vc with osc := { vc.osc with phase := 0 } }) ∧
    (∀ n : BitVec 16,
      let fr := fmul s.cfg.fmt (ofInt s.cfg.fmt 440)
        (numExp2 s.cfg.fmt (fdiv s.cfg.fmt (ofInt s.cfg.fmt (n.toInt - 69)) (ofInt s.cfg.fmt 12)))
      (isFinite s.cfg.fmt fr = true →
        exec (.oscnote v n) s = .next (s.withVoice v { vc with osc := { vc.osc with freq := ⟨fr, true⟩ } })) ∧
      (isFinite s.cfg.fmt fr = false → exec (.oscnote v n) s = .next (s.audioFault .badparam))) ∧
    (∀ r : FReal, isFinite s.cfg.fmt r = true →
      exec (.oscfreq v r) s = .next (s.withVoice v { vc with osc := { vc.osc with freq := ⟨r, true⟩ } }) ∧
      exec (.oscdet v r) s = .next (s.withVoice v { vc with osc := { vc.osc with detune := ⟨r, true⟩ } })) ∧
    (∀ tag : BitVec 3,
      (∀ w, waveformOf tag = some w →
        exec (.oscwave v tag) s = .next (s.withVoice v { vc with osc := { vc.osc with wave := ⟨w, true⟩ } })) ∧
      (4 < tag.toNat → exec (.oscwave v tag) s = .next (s.audioFault .badparam))) ∧
    [waveformOf 0, waveformOf 1, waveformOf 2, waveformOf 3, waveformOf 4] =
      [some .sine, some .square, some .sawtooth, some .triangle, some .noise]

/-! ### The envelope (`44_envelope.md`) -/

/-- R221: ENVNEXT, one stage action for each stage, and the fault of an unwritten parameter. That `SR` is one value
of the format, rounded once, is the model's choice (notes/assumptions/9). -/
def Obligations.EnvnextRunsOneStage : Prop :=
  ∀ (s : State) (v : Byte) (vc : Voice), s.hasVoice v vc →
    let f := s.cfg.fmt
    let e := vc.env
    let dt := fdiv f (ofInt f 1) (ofInt f s.cfg.sr)
    let one := ofInt f 1
    let goes := fun (val : FReal) (st : Stage) =>
      exec (.envnext v) s = .next
        ((s.withVoice v { vc with env := { e with value := val, stage := st } }).withArsp val)
    let rise := fadd f e.value (fdiv f dt e.attack.value)
    let fall := fsub f e.value (fdiv f dt e.decay.value)
    let drop := fsub f e.value (fdiv f (fmul f e.relstart dt) e.release.value)
    (e.stage = .idle → goes 0 .idle) ∧
    (e.stage = .attack → e.attack.written = true →
      if fle f e.attack.value 0 || fle f one rise then goes one .decay else goes rise .attack) ∧
    (e.stage = .decay → e.decay.written = true → e.sustain.written = true →
      if fle f e.decay.value 0 || fle f fall e.sustain.value then goes e.sustain.value .sustain
      else goes fall .decay) ∧
    (e.stage = .sustain → e.sustain.written = true → goes e.sustain.value .sustain) ∧
    (e.stage = .release → e.release.written = true →
      if fle f e.release.value 0 || fle f drop 0 then goes 0 .idle else goes drop .release) ∧
    ((e.stage = .attack ∧ e.attack.written = false) ∨
      (e.stage = .decay ∧ (e.decay.written = false ∨ e.sustain.written = false)) ∨
      (e.stage = .sustain ∧ e.sustain.written = false) ∨ (e.stage = .release ∧ e.release.written = false) →
      exec (.envnext v) s = .next (s.audioFault .uninit))

/-- R222 to R228: the other envelope commands. -/
def Obligations.EnvelopeCommands : Prop :=
  ∀ (s : State) (v : Byte) (vc : Voice), s.hasVoice v vc →
    exec (.envon v) s = .next (s.withVoice v { vc with env := { vc.env with stage := .attack } }) ∧
    (vc.env.stage ≠ .idle →
      exec (.envoff v) s = .next
        (s.withVoice v { vc with env := { vc.env with relstart := vc.env.value, stage := .release } })) ∧
    (vc.env.stage = .idle → exec (.envoff v) s = .next s) ∧
    exec (.envrst v) s = .next (s.withVoice v { vc with env := { vc.env with stage := .idle, value := 0 } }) ∧
    (∀ r : FReal, isFinite s.cfg.fmt r = true →
      exec (.envatk v r) s = .next (s.withVoice v { vc with env := { vc.env with attack := ⟨r, true⟩ } }) ∧
      exec (.envdec v r) s = .next (s.withVoice v { vc with env := { vc.env with decay := ⟨r, true⟩ } }) ∧
      exec (.envrel v r) s = .next (s.withVoice v { vc with env := { vc.env with release := ⟨r, true⟩ } }) ∧
      (inZeroOne s.cfg.fmt r = true →
        exec (.envsus v r) s = .next
          (s.withVoice v { vc with env := { vc.env with sustain := ⟨r, true⟩ } })) ∧
      (inZeroOne s.cfg.fmt r = false → exec (.envsus v r) s = .next (s.audioFault .badparam)))

/-! ### The filter (`45_biquad.md`) -/

/-- R242, R247: FLTPROC. With `DIRTY` set the coefficients are designed once from the three parameters and
`DIRTY` is cleared; then the difference equation, the shift of the delay line, the response. -/
def Obligations.FltprocFilters : Prop :=
  ∀ (s : State) (v : Byte) (vc : Voice) (x : FReal), s.hasVoice v vc → isFinite s.cfg.fmt x = true →
    let f := s.cfg.fmt
    let old := vc.flt
    let written := old.ftype.written && old.cutoff.written && old.res.written
    (old.dirty = true → written = false → exec (.fltproc v x) s = .next (s.audioFault .uninit)) ∧
    (∀ fl : Sys2Proof.Machine.Filter,
      (old.dirty = false ∧ fl = old) ∨
        (old.dirty = true ∧ written = true ∧
          fl = { old.coefficients s.cfg old.ftype.value old.cutoff.value old.res.value with dirty := false }) →
      let y := fsub f (fsub f (fadd f (fadd f (fmul f fl.b0 x) (fmul f fl.b1 old.x1)) (fmul f fl.b2 old.x2))
        (fmul f fl.a1 old.y1)) (fmul f fl.a2 old.y2)
      (isFinite f y = true →
        exec (.fltproc v x) s = .next
          ((s.withVoice v { vc with flt := { fl with x1 := x, x2 := old.x1, y1 := y, y2 := old.y1 } }).withArsp
            y)) ∧
      (isFinite f y = false → exec (.fltproc v x) s = .next (s.audioFault .badparam)))

/-- R241: the cookbook coefficients, for each type and each bandpass form, in the written order of
operations. That `SR` and the floor 0.01 are values of the format, rounded once, is the model's choice
(notes/assumptions/9). -/
def Obligations.CookbookCoefficients : Prop :=
  ∀ (c : Config) (ty : FilterType) (cut res : FReal) (old : Sys2Proof.Machine.Filter),
    let f := c.fmt
    let n := fun k : Int => ofInt f k
    let sr := ofInt f c.sr
    let lo := if fle f (n 1) cut then cut else n 1
    let top := fsub f (fdiv f sr (n 2)) (n 1)
    let fc := if fle f lo top then lo else top
    let q := if fle f (ofRatio f 1 100) res then res else ofRatio f 1 100
    let w0 := fdiv f (fmul f (fmul f (n 2) (numPi f)) fc) sr
    let cs := numCos f w0
    let sn := numSin f w0
    let alpha := fdiv f sn (fmul f (n 2) q)
    let a0 := fadd f (n 1) alpha
    let new := old.coefficients c ty cut res
    new = { old with b0 := new.b0, b1 := new.b1, b2 := new.b2, a1 := new.a1, a2 := new.a2 } ∧
    new.a1 = fdiv f (fmul f (n (-2)) cs) a0 ∧ new.a2 = fdiv f (fsub f (n 1) alpha) a0 ∧
    (ty = .lowpass →
      new.b0 = fdiv f (fdiv f (fsub f (n 1) cs) (n 2)) a0 ∧ new.b1 = fdiv f (fsub f (n 1) cs) a0 ∧
      new.b2 = new.b0) ∧
    (ty = .highpass →
      new.b0 = fdiv f (fdiv f (fadd f (n 1) cs) (n 2)) a0 ∧
      new.b1 = fdiv f (fneg f (fadd f (n 1) cs)) a0 ∧ new.b2 = new.b0) ∧
    (ty = .bandpass → c.bpf = .peak0db →
      new.b0 = fdiv f alpha a0 ∧ new.b1 = fdiv f 0 a0 ∧ new.b2 = fdiv f (fneg f alpha) a0) ∧
    (ty = .bandpass → c.bpf = .skirt →
      new.b0 = fdiv f (fdiv f sn (n 2)) a0 ∧ new.b1 = fdiv f 0 a0 ∧
      new.b2 = fdiv f (fneg f (fdiv f sn (n 2))) a0)

/-- R243 to R246: the other filter commands; the set commands mark the coefficients stale and compute
nothing. -/
def Obligations.FilterCommands : Prop :=
  ∀ (s : State) (v : Byte) (vc : Voice), s.hasVoice v vc →
    exec (.fltrst v) s = .next
      (s.withVoice v { vc with flt := { vc.flt with x1 := 0, x2 := 0, y1 := 0, y2 := 0 } }) ∧
    (∀ ty : BitVec 2,
      (∀ k, filterTypeOf ty = some k →
        exec (.flttype v ty) s = .next
          (s.withVoice v { vc with flt := { vc.flt with ftype := ⟨k, true⟩, dirty := true } })) ∧
      (ty = 3 → exec (.flttype v ty) s = .next (s.audioFault .badparam))) ∧
    [filterTypeOf 0, filterTypeOf 1, filterTypeOf 2] = [some .lowpass, some .highpass, some .bandpass] ∧
    (∀ r : FReal, isFinite s.cfg.fmt r = true →
      exec (.fltcut v r) s = .next
        (s.withVoice v { vc with flt := { vc.flt with cutoff := ⟨r, true⟩, dirty := true } }) ∧
      exec (.fltres v r) s = .next
        (s.withVoice v { vc with flt := { vc.flt with res := ⟨r, true⟩, dirty := true } }))

/-! ### Every command of the chain -/

/-- R107, R108: a voice command whose `UNIT` names no voice is ILLEGAL; a NaN or an infinity as its `REAL`
operand is BADPARAM; neither writes anything. -/
def Obligations.VoiceOperandsAreChecked : Prop :=
  ∀ (s : State) (i : Instr) (v : Byte), unitOf i = some v → s.audioRuns →
    (s.audio.voices.length ≤ v.toNat → exec i s = .next (s.audioFault .illegal)) ∧
    (∀ r : FReal, v.toNat < s.audio.voices.length → realOf i = some r → isFinite s.cfg.fmt r = false →
      exec i s = .next (s.audioFault .badparam))

/-- R261: VOICE is OSCNEXT, then FLTPROC of its sample, then ENVNEXT: the registers are left as the three
commands one after another leave them, with one response, the product; a fault of a part is the fault of the
whole, the oscillator's first. -/
def Obligations.VoiceIsTheChain : Prop :=
  ∀ (s : State) (v : Byte) (vc : Voice), s.hasVoice v vc →
    let draw := drawNoise s.cfg.fmt s.audio.draws
    (∀ x o w y fl e, vc.osc.next s.cfg draw = .ok (x, o, w) → isFinite s.cfg.fmt x = true →
      vc.flt.process s.cfg x = .ok (y, fl) → vc.env.next s.cfg = .ok e →
      ∃ s1 s2 s3, exec (.oscnext v) s = .next s1 ∧ exec (.fltproc v x) s1 = .next s2 ∧
        exec (.envnext v) s2 = .next s3 ∧ s3.audio.fault = s.audio.fault ∧
        s3.audio.voices[v.toNat]? = some ⟨o, e, fl⟩ ∧
        s3.audio.arsp = s.audio.arsp ++ realWords s.cfg.fmt x ++ realWords s.cfg.fmt y ++
          realWords s.cfg.fmt e.value ∧
        exec (.voice v) s = .next
          (({ s with
              audio := { s.audio with voices := s3.audio.voices, draws := s3.audio.draws } } : State).withArsp
            (fmul s.cfg.fmt y e.value))) ∧
    (∀ k, vc.osc.next s.cfg draw = .error k → exec (.voice v) s = .next (s.audioFault k)) ∧
    (∀ k x o w, vc.osc.next s.cfg draw = .ok (x, o, w) → isFinite s.cfg.fmt x = true →
      vc.flt.process s.cfg x = .error k → exec (.voice v) s = .next (s.audioFault k)) ∧
    (∀ k x o w y fl, vc.osc.next s.cfg draw = .ok (x, o, w) → isFinite s.cfg.fmt x = true →
      vc.flt.process s.cfg x = .ok (y, fl) → vc.env.next s.cfg = .error k →
      exec (.voice v) s = .next (s.audioFault k))

/-! ### The adapter (`46_audio_callback.md`) -/

/-- R262, R263: SPANWR writes one slot of the request; FILLRET delivers it, or silence on an error, and closes
the window. -/
def Obligations.FillWindow : Prop :=
  ∀ (s : State) (slot : BitVec 16) (x : Sample),
    (s.fillOpen → slot < s.audio.fillN →
      exec (.spanwr slot x) s = .next
        { s with audio := { s.audio with span := s.audio.span.set slot.toNat x } }) ∧
    (s.fillOpen → s.audio.fillN ≤ slot → exec (.spanwr slot x) s = .next (s.audioFault .badparam)) ∧
    (s.fillOpen →
      exec (.fillret false) s = .next
        { s with
          audio :=
            { s.audio with
              fillActive := false
              events := s.audio.events ++ [.deliver (s.audio.spanList s.audio.fillN.toNat)] } }) ∧
    (s.fillOpen →
      exec (.fillret true) s = .next
        { s with
          audio :=
            { s.audio with
              fillActive := false
              span := List.replicate s.audio.fillN.toNat 0 ++ s.audio.span.drop s.audio.fillN.toNat
              events := s.audio.events ++ [.deliver (List.replicate s.audio.fillN.toNat 0)] } }) ∧
    (s.audioRuns → ¬(s.cfg.audioMode = .inline ∧ s.audio.fillActive = true) →
      exec (.spanwr slot x) s = .next (s.audioFault .access) ∧
      ∀ err, exec (.fillret err) s = .next (s.audioFault .access))

/-- R264, R265: ABUFWR writes one sample of the back array while the producer owns it; ABUFRDY gives it up. -/
def Obligations.BackArrayHandoff : Prop :=
  ∀ (s : State) (slot : BitVec 16) (x : Sample), s.audioRuns →
    (s.cfg.audioMode = .buffered → s.audio.aready = false → slot.toNat < s.cfg.abufSize →
      ∃ t, exec (.abufwr slot x) s = .next t ∧ s.onlyBackSamples t ∧
        ∀ i, t.audio.backSample i = if i = slot.toNat then x else s.audio.backSample i) ∧
    (s.cfg.audioMode = .buffered → s.audio.aready = true →
      exec (.abufwr slot x) s = .next (s.audioFault .ownership)) ∧
    (s.cfg.audioMode = .buffered → s.audio.aready = false → s.cfg.abufSize ≤ slot.toNat →
      exec (.abufwr slot x) s = .next (s.audioFault .badparam)) ∧
    (s.cfg.audioMode = .buffered →
      exec .abufrdy s = .next { s with audio := { s.audio with aready := true } }) ∧
    (s.cfg.audioMode = .inline → exec (.abufwr slot x) s = .next (s.audioFault .access) ∧
      exec .abufrdy s = .next (s.audioFault .access))

/-- R267, R268: PULL opens a fill window (INLINE), or swaps and delivers, or delivers silence (BUFFERED). Nothing
is said of what the span holds at the opening: R267 leaves it open. -/
def Obligations.PullIsAnswered : Prop :=
  ∀ (s : State) (n : BitVec 16), s.audioRuns → n.toNat ≤ s.cfg.abufSize →
    (s.cfg.audioMode = .inline → s.audio.fillActive = false →
      ∃ t, exec (.pull n) s = .next t ∧
        t = { s with
          audio :=
            { s.audio with
              fillActive := true
              fillN := n
              span := t.audio.span
              draws := t.audio.draws
              events := s.audio.events ++ [.fillreq n] } } ∧
        ∀ i, n.toNat ≤ i → t.audio.span[i]? = s.audio.span[i]?) ∧
    (s.cfg.audioMode = .buffered → s.audio.aready = true →
      let out := (List.range n.toNat).map s.audio.backSample
      exec (.pull n) s = .next
        { s with
          audio :=
            { s.audio with
              fillN := n
              asel := !s.audio.asel
              aready := false
              span := out ++ s.audio.span.drop n.toNat
              events := s.audio.events ++ [.deliver out, .prodreq] } }) ∧
    (s.cfg.audioMode = .buffered → s.audio.aready = false →
      exec (.pull n) s = .next
        { s with
          audio :=
            { s.audio with
              fillN := n
              span := List.replicate n.toNat 0 ++ s.audio.span.drop n.toNat
              events := s.audio.events ++ [.deliver (List.replicate n.toNat 0)] } })

/-- What R266, R12 and R36 say is no move stops the machine by name: no input and no instruction of an audio domain
that is not there, no PULL that is too long or comes too early, no `NOW` past 2^64 - 1. That it stops is the
model's choice (notes/assumptions/12). -/
def Obligations.NoMoveStops : Prop :=
  (∀ (s : State) (n : BitVec 16),
    (s.cfg.sr = 0 → exec (.pull n) s = .refused .audioAbsent ∧
      ∀ i : Instr, i.port = .acmd → exec i s = .refused .audioAbsent) ∧
    (s.cfg.sr ≠ 0 → s.cfg.abufSize < n.toNat → exec (.pull n) s = .fault .pullTooLong) ∧
    (s.audioRuns → n.toNat ≤ s.cfg.abufSize → s.cfg.audioMode = .inline → s.audio.fillActive = true →
      exec (.pull n) s = .fault .pullDuringFill)) ∧
  (∀ s : State, s.cfg.sr = 0 →
    (∃ n, s.nextMove.1 = .pull n) ∨ (∃ w, s.nextMove.1 = .acmd w) ∨ s.nextMove.1 = .takeArsp →
    step s = .refused .audioAbsent) ∧
  (∀ (s : State) (n : BitVec 64), s.nextMove.1 = .tick n → 2 ^ 64 ≤ s.video.now.toNat + n.toNat →
    step s = .fault .nowExceeded)

/-! ### The arithmetic (`00_scope.md` R13) -/

/-- Each arithmetic operation on finite operands gives the exact result rounded to nearest, ties to even (R13): a
finite value exactly while the exact result stays below the largest finite value and half a unit in its last
place, and the infinity of its sign from there on. Values are exact multiples of the format's least positive
value. The definition of the operations is general knowledge (notes/assumptions/8). -/
def Obligations.ArithmeticRoundsToNearest : Prop :=
  ∀ (f : Fmt) (x y : FReal), isFinite f x = true → isFinite f y = true →
    let v := exactValue f
    IsRounded f (v x + v y) 1 (fadd f x y) ∧
    IsRounded f (v x - v y) 1 (fsub f x y) ∧
    IsRounded f (v x * v y) (2 ^ scale f) (fmul f x y) ∧
    (v y ≠ 0 → IsRounded f (v x * 2 ^ scale f) (v y) (fdiv f x y))
end

