-- ==== Sys2Proof/Laws/Float.lean ====
section
/-! SUPPORT. The laws of the floating-point operations: what a pattern put together from sign and magnitude
reads as, and that rounding never crosses a value of the format (`spec/00_scope.md` R13). -/

namespace Sys2Proof.Machine

/-! ### Magnitudes -/

/-- The hidden bit. -/
def hidden (f : Fmt) : Nat := 2 ^ (prec f - 1)

theorem hidden_pos (f : Fmt) : 0 < hidden f := by unfold hidden; positivity

theorem two_hidden (f : Fmt) : 2 * hidden f = 2 ^ prec f := by cases f <;> rfl

/-- The exponent and significand of a magnitude below infinity: its value is `m · 2^q`. -/
def magExp (f : Fmt) (mag : Nat) : Nat := mag / hidden f - 1

def magSig (f : Fmt) (mag : Nat) : Nat := mag - magExp f mag * hidden f

/-- The value of a magnitude below infinity, in units of the least positive value. -/
def magValue (f : Fmt) (mag : Nat) : Nat := magSig f mag * 2 ^ magExp f mag

theorem mag_split (f : Fmt) (mag : Nat) :
    mag = magExp f mag * hidden f + magSig f mag ∧ magSig f mag < 2 * hidden f ∧
      (0 < magExp f mag → hidden f ≤ magSig f mag) := by
  have hB := hidden_pos f
  have h1 : hidden f * (mag / hidden f) + mag % hidden f = mag := Nat.div_add_mod mag (hidden f)
  have h2 : mag % hidden f < hidden f := Nat.mod_lt _ hB
  unfold magSig magExp
  rcases Nat.eq_zero_or_pos (mag / hidden f) with h0 | h0
  · rw [h0] at h1 ⊢; simp at h1 ⊢; omega
  · obtain ⟨k, hk⟩ : ∃ k, mag / hidden f = k + 1 :=
        Nat.exists_eq_succ_of_ne_zero h0.ne'
    rw [hk] at h1 ⊢
    have : hidden f * (k + 1) = k * hidden f + hidden f := by ring
    simp only [Nat.add_sub_cancel]
    omega

/-- A magnitude is told by its exponent and significand. -/
theorem magValue_of (f : Fmt) {q m : Nat} (hm : m ≤ 2 * hidden f) (hq : 0 < q → hidden f ≤ m) :
    magValue f (q * hidden f + m) = m * 2 ^ q := by
  have hB := hidden_pos f
  rcases Nat.lt_or_ge m (hidden f) with h | h
  · have hq0 : q = 0 := by rcases Nat.eq_zero_or_pos q with h0 | h0; exact h0; have := hq h0; omega
    subst hq0
    simp [magValue, magSig, magExp, Nat.div_eq_of_lt h]
  · rcases Nat.lt_or_ge m (2 * hidden f) with h2 | h2
    · have hd : (q * hidden f + m) / hidden f = q + 1 := by
        rw [Nat.div_eq_iff hB]
        constructor
        · have : (q + 1) * hidden f = q * hidden f + hidden f := by ring
          omega
        · have : (q + 1) * hidden f = q * hidden f + hidden f := by ring
          omega
      simp [magValue, magSig, magExp, hd]
    · have hm2 : m = 2 * hidden f := by omega
      subst hm2
      have hd : (q * hidden f + 2 * hidden f) / hidden f = q + 2 := by
        rw [← Nat.add_mul, Nat.mul_div_cancel _ hB]
      simp only [magValue, magSig, magExp, hd]
      have : q * hidden f + 2 * hidden f - (q + 1) * hidden f = hidden f := by
        have : (q + 1) * hidden f = q * hidden f + hidden f := by ring
        omega
      rw [show q + 2 - 1 = q + 1 by omega, this, pow_succ]; ring

/-! ### Patterns -/

theorem infBits_lt (f : Fmt) : infBits f < 2 ^ (width f - 1) := by cases f <;> decide

/-- A sign over a magnitude below infinity reads as that finite value. -/
theorem unpack_withSign (f : Fmt) (neg : Bool) {mag : Nat} (h : mag < infBits f) :
    unpack f (withSign f neg mag) = .fin neg (magValue f mag) := by
  have hi := infBits_lt f
  have hw : 2 * 2 ^ (width f - 1) = 2 ^ width f := by cases f <;> rfl
  have hw64 : 2 ^ width f ≤ 2 ^ 64 := by cases f <;> decide
  have hmod : (withSign f neg mag).toNat % 2 ^ width f
      = if neg then 2 ^ (width f - 1) + mag else mag := by
    unfold withSign
    rw [BitVec.toNat_ofNat]
    cases neg <;> simp only [if_true, if_false, Bool.false_eq_true] <;>
      rw [Nat.mod_eq_of_lt (b := 2 ^ 64) (by omega), Nat.mod_eq_of_lt (by omega)]
  have hmag : (if neg then 2 ^ (width f - 1) + mag else mag) % 2 ^ (width f - 1) = mag := by
    cases neg
    · simpa using Nat.mod_eq_of_lt (by omega)
    · simp only [if_true]; rw [Nat.add_mod_left]; exact Nat.mod_eq_of_lt (by omega)
  have hneg : decide (2 ^ (width f - 1) ≤ if neg then 2 ^ (width f - 1) + mag else mag) = neg := by
    cases neg <;> simp <;> omega
  unfold unpack
  simp only [hmod, hmag, hneg]
  rw [if_neg (by omega), if_neg (by omega)]
  have hval : magValue f mag = if mag / hidden f = 0 then mag % hidden f
      else (hidden f + mag % hidden f) * 2 ^ (mag / hidden f - 1) := by
    have h1 : hidden f * (mag / hidden f) + mag % hidden f = mag := Nat.div_add_mod mag (hidden f)
    split
    · next h0 => rw [h0, Nat.mul_zero, Nat.zero_add] at h1; simp [magValue, magSig, magExp, h0, h1]
    · next h0 =>
      obtain ⟨k, hk⟩ : ∃ k, mag / hidden f = k + 1 :=
        Nat.exists_eq_succ_of_ne_zero h0
      rw [hk] at h1
      simp only [magValue, magSig, magExp, hk, Nat.add_sub_cancel]
      congr 1
      have : hidden f * (k + 1) = k * hidden f + hidden f := by ring
      omega
  rw [hval]
  simp only [hidden]
  by_cases h0 : mag / 2 ^ (prec f - 1) = 0 <;> simp [h0]

/-- Every finite pattern is a sign over a magnitude below infinity. -/
theorem unpack_fin {f : Fmt} {r : FReal} {neg : Bool} {n : Nat} (h : unpack f r = .fin neg n) :
    ∃ mag, mag < infBits f ∧ n = magValue f mag := by
  have hw : 2 * 2 ^ (width f - 1) = 2 ^ width f := by cases f <;> rfl
  refine ⟨r.toNat % 2 ^ width f % 2 ^ (width f - 1), ?_, ?_⟩
  · by_contra hlt
    unfold unpack at h
    simp only at h
    split at h
    · cases h
    · split at h
      · cases h
      · omega
  · unfold unpack at h
    simp only at h
    split at h
    · cases h
    · split at h
      · cases h
      · next h1 h2 =>
        have hm : r.toNat % 2 ^ width f % 2 ^ (width f - 1) < infBits f := by omega
        have := unpack_withSign f false hm
        rw [show n = _ from ?_]
        generalize r.toNat % 2 ^ width f % 2 ^ (width f - 1) = mag at *
        unfold magValue magSig magExp hidden
        have h3 : 2 ^ (prec f - 1) * (mag / 2 ^ (prec f - 1)) + mag % 2 ^ (prec f - 1) = mag :=
          Nat.div_add_mod mag _
        split at h
        · next h0 => cases h; rw [h0, Nat.mul_zero, Nat.zero_add] at h3; simp [h0, h3]
        · next h0 =>
          cases h
          obtain ⟨k, hk⟩ : ∃ k, mag / 2 ^ (prec f - 1) = k + 1 :=
            Nat.exists_eq_succ_of_ne_zero h0
          rw [hk] at h3
          simp only [hk, Nat.add_sub_cancel]
          congr 1
          have : 2 ^ (prec f - 1) * (k + 1) = k * 2 ^ (prec f - 1) + 2 ^ (prec f - 1) := by ring
          omega

/-! ### Rounding -/

theorem roundEven_le {num den m : Nat} (h : num ≤ m * den) : roundEven num den ≤ m := by
  unfold roundEven
  simp only
  rcases Nat.eq_zero_or_pos den with h0 | h0
  · subst h0; simp at h ⊢; subst h; simp
  have hd := Nat.div_add_mod num den
  have hm := Nat.mod_lt num h0
  have hle : num / den ≤ m := by
    rw [Nat.div_le_iff_le_mul_add_pred h0]; rw [Nat.mul_comm]; omega
  split
  · next hc =>
    have hrem : 0 < num % den := by omega
    rcases Nat.lt_or_ge (num / den) m with hl | hl
    · omega
    · have : num / den = m := by omega
      rw [this] at hd
      have : den * m = m * den := by ring
      omega
  · exact hle

theorem le_roundEven {num den m : Nat} (hden : 0 < den) (h : m * den ≤ num) : m ≤ roundEven num den := by
  have hle : m ≤ num / den := (Nat.le_div_iff_mul_le hden).mpr h
  unfold roundEven
  simp only
  split <;> omega

/-- The exponent that rounding chooses, and the significand it gets. -/
def roundExp (f : Fmt) (num den : Nat) : Nat := Nat.log2 (num / den) + 1 - prec f

def roundMag (f : Fmt) (num den : Nat) : Nat :=
  roundExp f num den * hidden f + roundEven num (den * 2 ^ roundExp f num den)

theorem fround_eq (f : Fmt) (neg : Bool) (num den : Nat) :
    fround f neg num den =
      if infBits f ≤ roundMag f num den then infPattern f neg else withSign f neg (roundMag f num den) := rfl

theorem prec_pos (f : Fmt) : 0 < prec f := by cases f <;> decide

theorem lt_two_pow_log2 (n : Nat) : n < 2 ^ (Nat.log2 n + 1) := Nat.lt_log2_self

theorem two_pow_log2_le {n : Nat} (h : n ≠ 0) : 2 ^ Nat.log2 n ≤ n := Nat.log2_self_le h

theorem round_sig (f : Fmt) {num den : Nat} (hden : 0 < den) :
    roundEven num (den * 2 ^ roundExp f num den) ≤ 2 * hidden f ∧
      (0 < roundExp f num den → hidden f ≤ roundEven num (den * 2 ^ roundExp f num den)) := by
  have hp := prec_pos f
  have h2 := two_hidden f
  have hlt := lt_two_pow_log2 (num / den)
  constructor
  · apply roundEven_le
    rw [h2]
    have hle : num < (num / den + 1) * den := by
      have := Nat.div_add_mod num den
      have := Nat.mod_lt num hden
      have : (num / den + 1) * den = den * (num / den) + den := by ring
      omega
    have hpow : 2 ^ (Nat.log2 (num / den) + 1) ≤ 2 ^ prec f * 2 ^ roundExp f num den := by
      rw [← pow_add]; exact Nat.pow_le_pow_right (by norm_num) (by unfold roundExp; omega)
    calc num ≤ (num / den + 1) * den := hle.le
      _ ≤ 2 ^ (Nat.log2 (num / den) + 1) * den := Nat.mul_le_mul_right _ hlt
      _ ≤ 2 ^ prec f * 2 ^ roundExp f num den * den := Nat.mul_le_mul_right _ hpow
      _ = 2 ^ prec f * (den * 2 ^ roundExp f num den) := by ring
  · intro hq
    apply le_roundEven (by positivity)
    have ht : num / den ≠ 0 := by
      intro h0
      have : Nat.log2 0 = 0 := by decide
      unfold roundExp at hq
      rw [h0, this] at hq
      cases f <;> simp [prec] at hq
    have hge := two_pow_log2_le ht
    have hexp : prec f - 1 + roundExp f num den = Nat.log2 (num / den) := by unfold roundExp at *; omega
    calc hidden f * (den * 2 ^ roundExp f num den)
        = 2 ^ (prec f - 1 + roundExp f num den) * den := by unfold hidden; rw [pow_add]; ring
      _ = 2 ^ Nat.log2 (num / den) * den := by rw [hexp]
      _ ≤ num / den * den := Nat.mul_le_mul_right _ hge
      _ ≤ num := Nat.div_mul_le_self _ _

/-- Rounding does not pass a value of the format above the exact result. -/
theorem roundMag_le (f : Fmt) {num den mag : Nat} (hden : 0 < den) (h : num ≤ magValue f mag * den) :
    roundMag f num den ≤ mag := by
  obtain ⟨hs, hM, hj⟩ := mag_split f mag
  have hR := round_sig f (num := num) hden
  have h2 := two_hidden f
  unfold magValue at h
  rw [hs]
  unfold roundMag
  set q := roundExp f num den with hqdef
  set j := magExp f mag
  set M := magSig f mag
  have hqj : q ≤ j := by
    by_contra hlt
    have hq0 : 0 < q := by omega
    have hge := Nat.le_trans (Nat.mul_le_mul_right (den * 2 ^ q) (le_refl (hidden f)))
      (show hidden f * (den * 2 ^ q) ≤ num from ?_)
    · have hp : 2 ^ (j + 1) ≤ 2 ^ q := Nat.pow_le_pow_right (by norm_num) (by omega)
      have h3 : hidden f * (den * 2 ^ (j + 1)) ≤ M * 2 ^ j * den :=
        Nat.le_trans (Nat.mul_le_mul_left _ (Nat.mul_le_mul_left _ hp)) (Nat.le_trans hge h)
      have h4 : hidden f * (den * 2 ^ (j + 1)) = 2 * hidden f * (2 ^ j * den) := by rw [pow_succ]; ring
      have h5 : M * 2 ^ j * den = M * (2 ^ j * den) := by ring
      rw [h4, h5] at h3
      have hpos : 0 < 2 ^ j * den := by positivity
      have := Nat.le_of_mul_le_mul_right h3 hpos
      omega
    · have ht : num / den ≠ 0 := by
        intro h0
        have : Nat.log2 0 = 0 := by decide
        have hq1 : q = Nat.log2 (num / den) + 1 - prec f := rfl
        rw [h0, this] at hq1
        have := prec_pos f
        omega
      have hge := two_pow_log2_le ht
      have hexp : prec f - 1 + q = Nat.log2 (num / den) := by
        have hq1 : q = Nat.log2 (num / den) + 1 - prec f := rfl
        have := prec_pos f
        omega
      calc hidden f * (den * 2 ^ q)
          = 2 ^ (prec f - 1 + q) * den := by unfold hidden; rw [pow_add]; ring
        _ = 2 ^ Nat.log2 (num / den) * den := by rw [hexp]
        _ ≤ num / den * den := Nat.mul_le_mul_right _ hge
        _ ≤ num := Nat.div_mul_le_self _ _
  rcases Nat.eq_or_lt_of_le hqj with he | hl
  · have : roundEven num (den * 2 ^ q) ≤ M := by
      apply roundEven_le; rw [he]; calc num ≤ M * 2 ^ j * den := h
        _ = M * (den * 2 ^ j) := by ring
    rw [he]; rw [he] at this; omega
  · have hM' := hj (by omega)
    have hB : (q + 1) * hidden f ≤ j * hidden f := Nat.mul_le_mul_right _ hl
    have : (q + 1) * hidden f = q * hidden f + hidden f := by ring
    have := hR.1
    omega

/-- Rounding does not pass a value of the format below the exact result. -/
theorem le_roundMag (f : Fmt) {num den mag : Nat} (hden : 0 < den) (h : magValue f mag * den ≤ num) :
    mag ≤ roundMag f num den := by
  obtain ⟨hs, hM, hj⟩ := mag_split f mag
  have hR := round_sig f (num := num) hden
  unfold magValue at h
  rw [hs]
  unfold roundMag
  set q := roundExp f num den with hqdef
  set j := magExp f mag
  set M := magSig f mag
  have hqj : j ≤ q := by
    rcases Nat.eq_zero_or_pos j with h0 | h0
    · omega
    · have hM' := hj h0
      have ht : hidden f * 2 ^ j ≤ num / den := by
        rw [Nat.le_div_iff_mul_le hden]
        exact Nat.le_trans (Nat.mul_le_mul_right _ (Nat.mul_le_mul_right _ hM')) h
      have hlt := Nat.lt_of_le_of_lt ht (lt_two_pow_log2 _)
      have : hidden f * 2 ^ j = 2 ^ (prec f - 1 + j) := by unfold hidden; rw [pow_add]
      rw [this, Nat.pow_lt_pow_iff_right (by norm_num)] at hlt
      have hq1 : q = Nat.log2 (num / den) + 1 - prec f := rfl
      omega
  rcases Nat.eq_or_lt_of_le hqj with he | hl
  · have : M ≤ roundEven num (den * 2 ^ q) := by
      apply le_roundEven (by positivity); rw [← he]; calc M * (den * 2 ^ j) = M * 2 ^ j * den := by ring
        _ ≤ num := h
    rw [he]; omega
  · have hR' := hR.2 (by omega)
    have hB : (j + 1) * hidden f ≤ q * hidden f := Nat.mul_le_mul_right _ hl
    have : (j + 1) * hidden f = j * hidden f + hidden f := by ring
    omega

/-- Rounding is exact on a value of the format. -/
theorem roundMag_exact (f : Fmt) {num den mag : Nat} (hden : 0 < den) (h : num = magValue f mag * den) :
    roundMag f num den = mag := Nat.le_antisymm (roundMag_le f hden h.le) (le_roundMag f hden h.ge)

/-- A finite rounding result reads as the magnitude that rounding chose. -/
theorem unpack_fround {f : Fmt} {neg : Bool} {num den : Nat} (h : roundMag f num den < infBits f) :
    unpack f (fround f neg num den) = .fin neg (magValue f (roundMag f num den)) := by
  rw [fround_eq, if_neg (by omega), unpack_withSign f neg h]

theorem unpack_infPattern (f : Fmt) (neg : Bool) : unpack f (infPattern f neg) = .inf neg := by
  cases f <;> cases neg <;> decide +kernel

/-- A rounding result is finite or an infinity, of the sign given; never NaN. -/
theorem unpack_fround_cases (f : Fmt) (neg : Bool) (num den : Nat) :
    (infBits f ≤ roundMag f num den ∧ unpack f (fround f neg num den) = .inf neg) ∨
    (roundMag f num den < infBits f ∧
      unpack f (fround f neg num den) = .fin neg (magValue f (roundMag f num den))) := by
  rcases Nat.lt_or_ge (roundMag f num den) (infBits f) with h | h
  · exact .inr ⟨h, unpack_fround h⟩
  · exact .inl ⟨h, by rw [fround_eq, if_pos h, unpack_infPattern]⟩

/-- Magnitudes are ordered as their values. -/
theorem magValue_mono (f : Fmt) {a b : Nat} (h : a ≤ b) : magValue f a ≤ magValue f b := by
  by_contra hlt
  have h1 := le_roundMag f (num := magValue f b) (den := 1) (mag := b) Nat.one_pos (by omega)
  have h2 := roundMag_le f (num := magValue f b) (den := 1) (mag := b) Nat.one_pos (by omega)
  have h3 := roundMag_le f (num := magValue f b) (den := 1) (mag := a) Nat.one_pos (by omega)
  have h4 : a = b := by omega
  subst h4
  omega

theorem magValue_lt_iff (f : Fmt) {a b : Nat} : magValue f a < magValue f b ↔ a < b := by
  constructor
  · intro h; by_contra hge; have := magValue_mono f (Nat.le_of_not_lt hge); omega
  · intro h
    by_contra hge
    have h1 := roundMag_le f (num := magValue f b) (den := 1) (mag := a) Nat.one_pos (by omega)
    have h2 := le_roundMag f (num := magValue f b) (den := 1) (mag := b) Nat.one_pos (by omega)
    omega

end Sys2Proof.Machine
end

