-- ==== Sys2Proof/Laws/Memory.lean ====
section
/-! SUPPORT. The laws of the memories: what a read gives after a write or a paint, and that every write keeps the
canonical form and the size (`spec/20_memory.md` R75, R81). -/

namespace Sys2Proof.Machine

variable {α : Type}

/-! ### Reads -/

@[simp] theorem memRead_nil (z : α) (a : Nat) : memRead z [] a = z := rfl

theorem memRead_cons (z : α) (k : Nat) (v : α) (m : List (Nat × α)) (a : Nat) :
    memRead z ((k, v) :: m) a = if k = a then v else memRead z m a := rfl

theorem memRead_insert (z : α) (m : List (Nat × α)) (a : Nat) (v : α) (b : Nat) :
    memRead z (memInsert m a v) b = if b = a then v else memRead z m b := by
  induction m with
  | nil => simp [memInsert, memRead, eq_comm]
  | cons c m ih =>
    obtain ⟨k, w⟩ := c
    unfold memInsert
    split
    · simp only [memRead_cons]; split_ifs <;> first | rfl | omega
    · split
      · simp only [memRead_cons]; split_ifs <;> first | rfl | omega
      · simp only [memRead_cons, ih]; split_ifs <;> first | rfl | omega

theorem memRead_erase (z : α) (m : List (Nat × α)) (a b : Nat) :
    memRead z (memErase m a) b = if b = a then z else memRead z m b := by
  induction m with
  | nil => simp [memErase]
  | cons c m ih =>
    obtain ⟨k, w⟩ := c
    unfold memErase at *
    by_cases hk : k = a
    · simp only [List.filter, hk, bne_self_eq_false, ih, memRead_cons]
      split_ifs <;> first | rfl | omega
    · simp only [List.filter, bne_iff_ne.mpr hk, memRead_cons, ih]
      split_ifs <;> first | rfl | omega

theorem mem_memInsert {m : List (Nat × α)} {a : Nat} {v : α} {c : Nat × α} (h : c ∈ memInsert m a v) :
    c = (a, v) ∨ c ∈ m := by
  induction m with
  | nil => simpa [memInsert] using h
  | cons d m ih =>
    obtain ⟨k, w⟩ := d
    unfold memInsert at h
    split at h
    · simpa using h
    · split at h
      · rcases List.mem_cons.mp h with h | h
        · exact .inl h
        · exact .inr (List.mem_cons_of_mem _ h)
      · rcases List.mem_cons.mp h with h | h
        · exact .inr (h ▸ List.mem_cons_self ..)
        · exact (ih h).imp id (List.mem_cons_of_mem _)

section Writes

variable [DecidableEq α]

/-- What a read gives after a write. -/
theorem memRead_write (z : α) (m : List (Nat × α)) (a : Nat) (v : α) (b : Nat) :
    memRead z (memWrite z m a v) b = if b = a then v else memRead z m b := by
  unfold memWrite
  split
  · next h => rw [memRead_erase, h]
  · exact memRead_insert z m a v b

@[simp] theorem memRead_write_same (z : α) (m : List (Nat × α)) (a : Nat) (v : α) :
    memRead z (memWrite z m a v) a = v := by simp [memRead_write]

theorem memRead_write_other (z : α) (m : List (Nat × α)) {a b : Nat} (v : α) (h : b ≠ a) :
    memRead z (memWrite z m a v) b = memRead z m b := by simp [memRead_write, h]

/-- What a read gives after a paint: the painted value below `n` where there is one, else what it gave. -/
theorem memRead_paint (z : α) (m : List (Nat × α)) (p : Nat → Option α) (n b : Nat) :
    memRead z (memPaint z m p n) b = if b < n then (p b).getD (memRead z m b) else memRead z m b := by
  induction n with
  | zero => simp [memPaint]
  | succ n ih =>
    unfold memPaint
    rcases Nat.lt_trichotomy b n with h | h | h
    · have h1 : b < n + 1 := by omega
      have h2 : b ≠ n := by omega
      cases hp : p n <;> simp [memRead_write, ih, h, h1, h2]
    · subst h
      cases hp : p b <;> simp [ih]
    · have h1 : ¬ b < n + 1 := by omega
      have h2 : b ≠ n := by omega
      have h3 : ¬ b < n := by omega
      cases hp : p n <;> simp [memRead_write, ih, h1, h2, h3]

/-! ### The canonical form -/

theorem memWfFrom_mono {z : α} {lo lo' : Nat} {m : List (Nat × α)} (h : memWfFrom z lo m = true)
    (hl : lo' ≤ lo) : memWfFrom z lo' m = true := by
  cases m with
  | nil => rfl
  | cons c m =>
    obtain ⟨k, v⟩ := c
    simp only [memWfFrom, Bool.and_eq_true, decide_eq_true_eq] at h ⊢
    exact ⟨⟨by omega, h.1.2⟩, h.2⟩

theorem memWfFrom_insert {z : α} {lo : Nat} {m : List (Nat × α)} {a : Nat} {v : α}
    (h : memWfFrom z lo m = true) (hv : v ≠ z) (ha : lo ≤ a) : memWfFrom z lo (memInsert m a v) = true := by
  induction m generalizing lo with
  | nil => simp [memInsert, memWfFrom, hv, ha]
  | cons c m ih =>
    obtain ⟨k, w⟩ := c
    simp only [memWfFrom, Bool.and_eq_true, decide_eq_true_eq] at h
    unfold memInsert
    split
    · next hk => simp only [memWfFrom, Bool.and_eq_true, decide_eq_true_eq]; exact ⟨⟨ha, hv⟩, ⟨by omega, h.1.2⟩, h.2⟩
    · split
      · next hk => subst hk; simp only [memWfFrom, Bool.and_eq_true, decide_eq_true_eq]; exact ⟨⟨ha, hv⟩, h.2⟩
      · simp only [memWfFrom, Bool.and_eq_true, decide_eq_true_eq]
        exact ⟨h.1, ih h.2 (by omega)⟩

theorem memWfFrom_erase {z : α} {lo : Nat} {m : List (Nat × α)} (a : Nat)
    (h : memWfFrom z lo m = true) : memWfFrom z lo (memErase m a) = true := by
  induction m generalizing lo with
  | nil => rfl
  | cons c m ih =>
    obtain ⟨k, w⟩ := c
    simp only [memWfFrom, Bool.and_eq_true, decide_eq_true_eq] at h
    unfold memErase at *
    simp only [List.filter]
    split
    · simp only [memWfFrom, Bool.and_eq_true, decide_eq_true_eq]; exact ⟨h.1, ih h.2⟩
    · exact ih (memWfFrom_mono h.2 (by omega))

@[simp] theorem memWf_nil (z : α) : memWf z [] = true := rfl

theorem memWf_write {z : α} {m : List (Nat × α)} (a : Nat) (v : α) (h : memWf z m = true) :
    memWf z (memWrite z m a v) = true := by
  unfold memWrite
  split
  · exact memWfFrom_erase a h
  · next hv => exact memWfFrom_insert h hv (Nat.zero_le _)

theorem memWf_paint {z : α} {m : List (Nat × α)} (p : Nat → Option α) (n : Nat) (h : memWf z m = true) :
    memWf z (memPaint z m p n) = true := by
  induction n with
  | zero => exact h
  | succ n ih =>
    unfold memPaint
    split
    · exact memWf_write _ _ ih
    · exact ih

/-! ### The size -/

theorem mem_memWrite {z : α} {m : List (Nat × α)} {a : Nat} {v : α} {c : Nat × α}
    (h : c ∈ memWrite z m a v) : c = (a, v) ∨ c ∈ m := by
  unfold memWrite at h
  split at h
  · exact .inr (List.mem_of_mem_filter h)
  · exact mem_memInsert h

theorem memOk_iff {z : α} {size : Nat} {m : List (Nat × α)} :
    memOk z size m = true ↔ memWf z m = true ∧ ∀ c ∈ m, c.1 < size := by
  simp [memOk, List.all_eq_true]

@[simp] theorem memOk_nil (z : α) (size : Nat) : memOk z size [] = true := rfl

/-- A write inside the memory keeps its form and size. -/
theorem memOk_write {z : α} {size : Nat} {m : List (Nat × α)} {a : Nat} (v : α) (ha : a < size)
    (h : memOk z size m = true) : memOk z size (memWrite z m a v) = true := by
  rw [memOk_iff] at h ⊢
  refine ⟨memWf_write _ _ h.1, fun c hc => ?_⟩
  rcases mem_memWrite hc with rfl | hc
  · exact ha
  · exact h.2 c hc

/-- A paint inside the memory keeps its form and size. -/
theorem memOk_paint {z : α} {size : Nat} {m : List (Nat × α)} (p : Nat → Option α) {n : Nat} (hn : n ≤ size)
    (h : memOk z size m = true) : memOk z size (memPaint z m p n) = true := by
  induction n with
  | zero => exact h
  | succ n ih =>
    unfold memPaint
    split
    · exact memOk_write _ (by omega) (ih (by omega))
    · exact ih (by omega)

/-! ### Equal reads of canonical memories are equal memories -/

theorem memRead_below {z : α} {lo : Nat} {m : List (Nat × α)} (h : memWfFrom z lo m = true) {a : Nat}
    (ha : a < lo) : memRead z m a = z := by
  induction m generalizing lo with
  | nil => rfl
  | cons c m ih =>
    obtain ⟨k, v⟩ := c
    simp only [memWfFrom, Bool.and_eq_true, decide_eq_true_eq] at h
    rw [memRead_cons, if_neg (by omega)]
    exact ih h.2 (by omega)

theorem memWfFrom_ext {z : α} {lo : Nat} {m m' : List (Nat × α)} (h : memWfFrom z lo m = true)
    (h' : memWfFrom z lo m' = true) (hr : ∀ a, memRead z m a = memRead z m' a) : m = m' := by
  induction m generalizing lo m' with
  | nil =>
    cases m' with
    | nil => rfl
    | cons c m' =>
      obtain ⟨k, v⟩ := c
      simp only [memWfFrom, Bool.and_eq_true, decide_eq_true_eq] at h'
      have := hr k
      simp [memRead_cons] at this
      exact absurd this.symm h'.1.2
  | cons c m ih =>
    obtain ⟨k, v⟩ := c
    simp only [memWfFrom, Bool.and_eq_true, decide_eq_true_eq] at h
    cases m' with
    | nil =>
      have := hr k
      simp [memRead_cons] at this
      exact absurd this h.1.2
    | cons c' m' =>
      obtain ⟨k', v'⟩ := c'
      simp only [memWfFrom, Bool.and_eq_true, decide_eq_true_eq] at h'
      have hk : k = k' := by
        rcases Nat.lt_trichotomy k k' with hlt | heq | hlt
        · have := hr k
          rw [memRead_cons, if_pos rfl, memRead_cons, if_neg (by omega),
            memRead_below h'.2 (by omega)] at this
          exact absurd this h.1.2
        · exact heq
        · have := hr k'
          rw [memRead_cons, if_neg (by omega), memRead_below h.2 (by omega), memRead_cons,
            if_pos rfl] at this
          exact absurd this.symm h'.1.2
      subst hk
      have hv : v = v' := by simpa [memRead_cons] using hr k
      subst hv
      have : m = m' := by
        refine ih h.2 h'.2 fun a => ?_
        by_cases ha : k = a
        · subst ha; rw [memRead_below h.2 (by omega), memRead_below h'.2 (by omega)]
        · have := hr a
          rwa [memRead_cons, if_neg ha, memRead_cons, if_neg ha] at this
      rw [this]

/-- Canonical memories that read alike are equal. -/
theorem memory_ext {z : α} {m m' : List (Nat × α)} (h : memWf z m = true) (h' : memWf z m' = true)
    (hr : ∀ a, memRead z m a = memRead z m' a) : m = m' := memWfFrom_ext h h' hr

end Writes

end Sys2Proof.Machine
end

