-- ==== Sys2Proof/Laws/State.lean ====
section
/-! SUPPORT. One lemma per field per update of the two domains' state, tagged for simp, so that no proof unfolds
a record update. -/

namespace Sys2Proof.Machine

section VideoFields

variable (v : VideoState)

@[simp] theorem VideoState.setFbBack_fb0 (m : List Host.Cell) : (v.setFbBack m).fb0 = if v.fbsel then m else v.fb0 := by unfold VideoState.setFbBack; split <;> rfl
@[simp] theorem VideoState.setFbBack_fb1 (m : List Host.Cell) : (v.setFbBack m).fb1 = if v.fbsel then v.fb1 else m := by unfold VideoState.setFbBack; split <;> rfl
@[simp] theorem VideoState.setFbBack_fbsel (m : List Host.Cell) : (v.setFbBack m).fbsel = v.fbsel := by unfold VideoState.setFbBack; split <;> rfl
@[simp] theorem VideoState.setFbBack_pal0 (m : List Host.Cell) : (v.setFbBack m).pal0 = v.pal0 := by unfold VideoState.setFbBack; split <;> rfl
@[simp] theorem VideoState.setFbBack_pal1 (m : List Host.Cell) : (v.setFbBack m).pal1 = v.pal1 := by unfold VideoState.setFbBack; split <;> rfl
@[simp] theorem VideoState.setFbBack_palsel (m : List Host.Cell) : (v.setFbBack m).palsel = v.palsel := by unfold VideoState.setFbBack; split <;> rfl
@[simp] theorem VideoState.setFbBack_phase (m : List Host.Cell) : (v.setFbBack m).phase = v.phase := by unfold VideoState.setFbBack; split <;> rfl
@[simp] theorem VideoState.setFbBack_line (m : List Host.Cell) : (v.setFbBack m).line = v.line := by unfold VideoState.setFbBack; split <;> rfl
@[simp] theorem VideoState.setFbBack_deadline (m : List Host.Cell) : (v.setFbBack m).deadline = v.deadline := by unfold VideoState.setFbBack; split <;> rfl
@[simp] theorem VideoState.setFbBack_tpf (m : List Host.Cell) : (v.setFbBack m).tpf = v.tpf := by unfold VideoState.setFbBack; split <;> rfl
@[simp] theorem VideoState.setFbBack_quit (m : List Host.Cell) : (v.setFbBack m).quit = v.quit := by unfold VideoState.setFbBack; split <;> rfl
@[simp] theorem VideoState.setFbBack_fault (m : List Host.Cell) : (v.setFbBack m).fault = v.fault := by unfold VideoState.setFbBack; split <;> rfl
@[simp] theorem VideoState.setFbBack_now (m : List Host.Cell) : (v.setFbBack m).now = v.now := by unfold VideoState.setFbBack; split <;> rfl
@[simp] theorem VideoState.setFbBack_presentReady (m : List Host.Cell) : (v.setFbBack m).presentReady = v.presentReady := by unfold VideoState.setFbBack; split <;> rfl
@[simp] theorem VideoState.setFbBack_vcmd (m : List Host.Cell) : (v.setFbBack m).vcmd = v.vcmd := by unfold VideoState.setFbBack; split <;> rfl
@[simp] theorem VideoState.setFbBack_vrsp (m : List Host.Cell) : (v.setFbBack m).vrsp = v.vrsp := by unfold VideoState.setFbBack; split <;> rfl
@[simp] theorem VideoState.setFbBack_events (m : List Host.Cell) : (v.setFbBack m).events = v.events := by unfold VideoState.setFbBack; split <;> rfl

@[simp] theorem VideoState.setPalBack_fb0 (m : List (Nat × RGB)) : (v.setPalBack m).fb0 = v.fb0 := by unfold VideoState.setPalBack; split <;> rfl
@[simp] theorem VideoState.setPalBack_fb1 (m : List (Nat × RGB)) : (v.setPalBack m).fb1 = v.fb1 := by unfold VideoState.setPalBack; split <;> rfl
@[simp] theorem VideoState.setPalBack_fbsel (m : List (Nat × RGB)) : (v.setPalBack m).fbsel = v.fbsel := by unfold VideoState.setPalBack; split <;> rfl
@[simp] theorem VideoState.setPalBack_pal0 (m : List (Nat × RGB)) : (v.setPalBack m).pal0 = if v.palsel then m else v.pal0 := by unfold VideoState.setPalBack; split <;> rfl
@[simp] theorem VideoState.setPalBack_pal1 (m : List (Nat × RGB)) : (v.setPalBack m).pal1 = if v.palsel then v.pal1 else m := by unfold VideoState.setPalBack; split <;> rfl
@[simp] theorem VideoState.setPalBack_palsel (m : List (Nat × RGB)) : (v.setPalBack m).palsel = v.palsel := by unfold VideoState.setPalBack; split <;> rfl
@[simp] theorem VideoState.setPalBack_phase (m : List (Nat × RGB)) : (v.setPalBack m).phase = v.phase := by unfold VideoState.setPalBack; split <;> rfl
@[simp] theorem VideoState.setPalBack_line (m : List (Nat × RGB)) : (v.setPalBack m).line = v.line := by unfold VideoState.setPalBack; split <;> rfl
@[simp] theorem VideoState.setPalBack_deadline (m : List (Nat × RGB)) : (v.setPalBack m).deadline = v.deadline := by unfold VideoState.setPalBack; split <;> rfl
@[simp] theorem VideoState.setPalBack_tpf (m : List (Nat × RGB)) : (v.setPalBack m).tpf = v.tpf := by unfold VideoState.setPalBack; split <;> rfl
@[simp] theorem VideoState.setPalBack_quit (m : List (Nat × RGB)) : (v.setPalBack m).quit = v.quit := by unfold VideoState.setPalBack; split <;> rfl
@[simp] theorem VideoState.setPalBack_fault (m : List (Nat × RGB)) : (v.setPalBack m).fault = v.fault := by unfold VideoState.setPalBack; split <;> rfl
@[simp] theorem VideoState.setPalBack_now (m : List (Nat × RGB)) : (v.setPalBack m).now = v.now := by unfold VideoState.setPalBack; split <;> rfl
@[simp] theorem VideoState.setPalBack_presentReady (m : List (Nat × RGB)) : (v.setPalBack m).presentReady = v.presentReady := by unfold VideoState.setPalBack; split <;> rfl
@[simp] theorem VideoState.setPalBack_vcmd (m : List (Nat × RGB)) : (v.setPalBack m).vcmd = v.vcmd := by unfold VideoState.setPalBack; split <;> rfl
@[simp] theorem VideoState.setPalBack_vrsp (m : List (Nat × RGB)) : (v.setPalBack m).vrsp = v.vrsp := by unfold VideoState.setPalBack; split <;> rfl
@[simp] theorem VideoState.setPalBack_events (m : List (Nat × RGB)) : (v.setPalBack m).events = v.events := by unfold VideoState.setPalBack; split <;> rfl

@[simp] theorem VideoState.flipRoles_fb0 : (v.flipRoles).fb0 = v.fb0 := rfl
@[simp] theorem VideoState.flipRoles_fb1 : (v.flipRoles).fb1 = v.fb1 := rfl
@[simp] theorem VideoState.flipRoles_fbsel : (v.flipRoles).fbsel = !v.fbsel := rfl
@[simp] theorem VideoState.flipRoles_pal0 : (v.flipRoles).pal0 = v.pal0 := rfl
@[simp] theorem VideoState.flipRoles_pal1 : (v.flipRoles).pal1 = v.pal1 := rfl
@[simp] theorem VideoState.flipRoles_palsel : (v.flipRoles).palsel = v.palsel := rfl
@[simp] theorem VideoState.flipRoles_phase : (v.flipRoles).phase = v.phase := rfl
@[simp] theorem VideoState.flipRoles_line : (v.flipRoles).line = v.line := rfl
@[simp] theorem VideoState.flipRoles_deadline : (v.flipRoles).deadline = v.deadline := rfl
@[simp] theorem VideoState.flipRoles_tpf : (v.flipRoles).tpf = v.tpf := rfl
@[simp] theorem VideoState.flipRoles_quit : (v.flipRoles).quit = v.quit := rfl
@[simp] theorem VideoState.flipRoles_fault : (v.flipRoles).fault = v.fault := rfl
@[simp] theorem VideoState.flipRoles_now : (v.flipRoles).now = v.now := rfl
@[simp] theorem VideoState.flipRoles_presentReady : (v.flipRoles).presentReady = v.presentReady := rfl
@[simp] theorem VideoState.flipRoles_vcmd : (v.flipRoles).vcmd = v.vcmd := rfl
@[simp] theorem VideoState.flipRoles_vrsp : (v.flipRoles).vrsp = v.vrsp := rfl
@[simp] theorem VideoState.flipRoles_events : (v.flipRoles).events = v.events := rfl

@[simp] theorem VideoState.commitRoles_fb0 : (v.commitRoles).fb0 = v.fb0 := rfl
@[simp] theorem VideoState.commitRoles_fb1 : (v.commitRoles).fb1 = v.fb1 := rfl
@[simp] theorem VideoState.commitRoles_fbsel : (v.commitRoles).fbsel = v.fbsel := rfl
@[simp] theorem VideoState.commitRoles_pal0 : (v.commitRoles).pal0 = v.pal0 := rfl
@[simp] theorem VideoState.commitRoles_pal1 : (v.commitRoles).pal1 = v.pal1 := rfl
@[simp] theorem VideoState.commitRoles_palsel : (v.commitRoles).palsel = !v.palsel := rfl
@[simp] theorem VideoState.commitRoles_phase : (v.commitRoles).phase = v.phase := rfl
@[simp] theorem VideoState.commitRoles_line : (v.commitRoles).line = v.line := rfl
@[simp] theorem VideoState.commitRoles_deadline : (v.commitRoles).deadline = v.deadline := rfl
@[simp] theorem VideoState.commitRoles_tpf : (v.commitRoles).tpf = v.tpf := rfl
@[simp] theorem VideoState.commitRoles_quit : (v.commitRoles).quit = v.quit := rfl
@[simp] theorem VideoState.commitRoles_fault : (v.commitRoles).fault = v.fault := rfl
@[simp] theorem VideoState.commitRoles_now : (v.commitRoles).now = v.now := rfl
@[simp] theorem VideoState.commitRoles_presentReady : (v.commitRoles).presentReady = v.presentReady := rfl
@[simp] theorem VideoState.commitRoles_vcmd : (v.commitRoles).vcmd = v.vcmd := rfl
@[simp] theorem VideoState.commitRoles_vrsp : (v.commitRoles).vrsp = v.vrsp := rfl
@[simp] theorem VideoState.commitRoles_events : (v.commitRoles).events = v.events := rfl

@[simp] theorem VideoState.emit_fb0 (e : VEvent) : (v.emit e).fb0 = v.fb0 := rfl
@[simp] theorem VideoState.emit_fb1 (e : VEvent) : (v.emit e).fb1 = v.fb1 := rfl
@[simp] theorem VideoState.emit_fbsel (e : VEvent) : (v.emit e).fbsel = v.fbsel := rfl
@[simp] theorem VideoState.emit_pal0 (e : VEvent) : (v.emit e).pal0 = v.pal0 := rfl
@[simp] theorem VideoState.emit_pal1 (e : VEvent) : (v.emit e).pal1 = v.pal1 := rfl
@[simp] theorem VideoState.emit_palsel (e : VEvent) : (v.emit e).palsel = v.palsel := rfl
@[simp] theorem VideoState.emit_phase (e : VEvent) : (v.emit e).phase = v.phase := rfl
@[simp] theorem VideoState.emit_line (e : VEvent) : (v.emit e).line = v.line := rfl
@[simp] theorem VideoState.emit_deadline (e : VEvent) : (v.emit e).deadline = v.deadline := rfl
@[simp] theorem VideoState.emit_tpf (e : VEvent) : (v.emit e).tpf = v.tpf := rfl
@[simp] theorem VideoState.emit_quit (e : VEvent) : (v.emit e).quit = v.quit := rfl
@[simp] theorem VideoState.emit_fault (e : VEvent) : (v.emit e).fault = v.fault := rfl
@[simp] theorem VideoState.emit_now (e : VEvent) : (v.emit e).now = v.now := rfl
@[simp] theorem VideoState.emit_presentReady (e : VEvent) : (v.emit e).presentReady = v.presentReady := rfl
@[simp] theorem VideoState.emit_vcmd (e : VEvent) : (v.emit e).vcmd = v.vcmd := rfl
@[simp] theorem VideoState.emit_vrsp (e : VEvent) : (v.emit e).vrsp = v.vrsp := rfl
@[simp] theorem VideoState.emit_events (e : VEvent) : (v.emit e).events = v.events ++ [e] := rfl

@[simp] theorem VideoState.respond_fb0 (w : Word) : (v.respond w).fb0 = v.fb0 := rfl
@[simp] theorem VideoState.respond_fb1 (w : Word) : (v.respond w).fb1 = v.fb1 := rfl
@[simp] theorem VideoState.respond_fbsel (w : Word) : (v.respond w).fbsel = v.fbsel := rfl
@[simp] theorem VideoState.respond_pal0 (w : Word) : (v.respond w).pal0 = v.pal0 := rfl
@[simp] theorem VideoState.respond_pal1 (w : Word) : (v.respond w).pal1 = v.pal1 := rfl
@[simp] theorem VideoState.respond_palsel (w : Word) : (v.respond w).palsel = v.palsel := rfl
@[simp] theorem VideoState.respond_phase (w : Word) : (v.respond w).phase = v.phase := rfl
@[simp] theorem VideoState.respond_line (w : Word) : (v.respond w).line = v.line := rfl
@[simp] theorem VideoState.respond_deadline (w : Word) : (v.respond w).deadline = v.deadline := rfl
@[simp] theorem VideoState.respond_tpf (w : Word) : (v.respond w).tpf = v.tpf := rfl
@[simp] theorem VideoState.respond_quit (w : Word) : (v.respond w).quit = v.quit := rfl
@[simp] theorem VideoState.respond_fault (w : Word) : (v.respond w).fault = v.fault := rfl
@[simp] theorem VideoState.respond_now (w : Word) : (v.respond w).now = v.now := rfl
@[simp] theorem VideoState.respond_presentReady (w : Word) : (v.respond w).presentReady = v.presentReady := rfl
@[simp] theorem VideoState.respond_vcmd (w : Word) : (v.respond w).vcmd = v.vcmd := rfl
@[simp] theorem VideoState.respond_vrsp (w : Word) : (v.respond w).vrsp = v.vrsp ++ [w] := rfl
@[simp] theorem VideoState.respond_events (w : Word) : (v.respond w).events = v.events ++ [.vrsp w] := rfl

@[simp] theorem VideoState.raise_fb0 (k : Cause) : (v.raise k).fb0 = v.fb0 := rfl
@[simp] theorem VideoState.raise_fb1 (k : Cause) : (v.raise k).fb1 = v.fb1 := rfl
@[simp] theorem VideoState.raise_fbsel (k : Cause) : (v.raise k).fbsel = v.fbsel := rfl
@[simp] theorem VideoState.raise_pal0 (k : Cause) : (v.raise k).pal0 = v.pal0 := rfl
@[simp] theorem VideoState.raise_pal1 (k : Cause) : (v.raise k).pal1 = v.pal1 := rfl
@[simp] theorem VideoState.raise_palsel (k : Cause) : (v.raise k).palsel = v.palsel := rfl
@[simp] theorem VideoState.raise_phase (k : Cause) : (v.raise k).phase = v.phase := rfl
@[simp] theorem VideoState.raise_line (k : Cause) : (v.raise k).line = v.line := rfl
@[simp] theorem VideoState.raise_deadline (k : Cause) : (v.raise k).deadline = v.deadline := rfl
@[simp] theorem VideoState.raise_tpf (k : Cause) : (v.raise k).tpf = v.tpf := rfl
@[simp] theorem VideoState.raise_quit (k : Cause) : (v.raise k).quit = v.quit := rfl
@[simp] theorem VideoState.raise_fault (k : Cause) : (v.raise k).fault = v.fault.raise k := rfl
@[simp] theorem VideoState.raise_now (k : Cause) : (v.raise k).now = v.now := rfl
@[simp] theorem VideoState.raise_presentReady (k : Cause) : (v.raise k).presentReady = v.presentReady := rfl
@[simp] theorem VideoState.raise_vcmd (k : Cause) : (v.raise k).vcmd = v.vcmd := rfl
@[simp] theorem VideoState.raise_vrsp (k : Cause) : (v.raise k).vrsp = v.vrsp := rfl
@[simp] theorem VideoState.raise_events (k : Cause) : (v.raise k).events = v.events := rfl

@[simp] theorem VideoState.setPixel_fb0 (o : Nat) (i : Byte) : (v.setPixel o i).fb0 = if v.fbsel then memWrite 0 v.fbBack o i else v.fb0 := by simp [VideoState.setPixel]
@[simp] theorem VideoState.setPixel_fb1 (o : Nat) (i : Byte) : (v.setPixel o i).fb1 = if v.fbsel then v.fb1 else memWrite 0 v.fbBack o i := by simp [VideoState.setPixel]
@[simp] theorem VideoState.setPixel_fbsel (o : Nat) (i : Byte) : (v.setPixel o i).fbsel = v.fbsel := by simp [VideoState.setPixel]
@[simp] theorem VideoState.setPixel_pal0 (o : Nat) (i : Byte) : (v.setPixel o i).pal0 = v.pal0 := by simp [VideoState.setPixel]
@[simp] theorem VideoState.setPixel_pal1 (o : Nat) (i : Byte) : (v.setPixel o i).pal1 = v.pal1 := by simp [VideoState.setPixel]
@[simp] theorem VideoState.setPixel_palsel (o : Nat) (i : Byte) : (v.setPixel o i).palsel = v.palsel := by simp [VideoState.setPixel]
@[simp] theorem VideoState.setPixel_phase (o : Nat) (i : Byte) : (v.setPixel o i).phase = v.phase := by simp [VideoState.setPixel]
@[simp] theorem VideoState.setPixel_line (o : Nat) (i : Byte) : (v.setPixel o i).line = v.line := by simp [VideoState.setPixel]
@[simp] theorem VideoState.setPixel_deadline (o : Nat) (i : Byte) : (v.setPixel o i).deadline = v.deadline := by simp [VideoState.setPixel]
@[simp] theorem VideoState.setPixel_tpf (o : Nat) (i : Byte) : (v.setPixel o i).tpf = v.tpf := by simp [VideoState.setPixel]
@[simp] theorem VideoState.setPixel_quit (o : Nat) (i : Byte) : (v.setPixel o i).quit = v.quit := by simp [VideoState.setPixel]
@[simp] theorem VideoState.setPixel_fault (o : Nat) (i : Byte) : (v.setPixel o i).fault = v.fault := by simp [VideoState.setPixel]
@[simp] theorem VideoState.setPixel_now (o : Nat) (i : Byte) : (v.setPixel o i).now = v.now := by simp [VideoState.setPixel]
@[simp] theorem VideoState.setPixel_presentReady (o : Nat) (i : Byte) : (v.setPixel o i).presentReady = v.presentReady := by simp [VideoState.setPixel]
@[simp] theorem VideoState.setPixel_vcmd (o : Nat) (i : Byte) : (v.setPixel o i).vcmd = v.vcmd := by simp [VideoState.setPixel]
@[simp] theorem VideoState.setPixel_vrsp (o : Nat) (i : Byte) : (v.setPixel o i).vrsp = v.vrsp := by simp [VideoState.setPixel]
@[simp] theorem VideoState.setPixel_events (o : Nat) (i : Byte) : (v.setPixel o i).events = v.events := by simp [VideoState.setPixel]

@[simp] theorem VideoState.setEntry_fb0 (i : Nat) (c : RGB) : (v.setEntry i c).fb0 = v.fb0 := by simp [VideoState.setEntry]
@[simp] theorem VideoState.setEntry_fb1 (i : Nat) (c : RGB) : (v.setEntry i c).fb1 = v.fb1 := by simp [VideoState.setEntry]
@[simp] theorem VideoState.setEntry_fbsel (i : Nat) (c : RGB) : (v.setEntry i c).fbsel = v.fbsel := by simp [VideoState.setEntry]
@[simp] theorem VideoState.setEntry_pal0 (i : Nat) (c : RGB) : (v.setEntry i c).pal0 = if v.palsel then memWrite RGB.black v.palBack i c else v.pal0 := by simp [VideoState.setEntry]
@[simp] theorem VideoState.setEntry_pal1 (i : Nat) (c : RGB) : (v.setEntry i c).pal1 = if v.palsel then v.pal1 else memWrite RGB.black v.palBack i c := by simp [VideoState.setEntry]
@[simp] theorem VideoState.setEntry_palsel (i : Nat) (c : RGB) : (v.setEntry i c).palsel = v.palsel := by simp [VideoState.setEntry]
@[simp] theorem VideoState.setEntry_phase (i : Nat) (c : RGB) : (v.setEntry i c).phase = v.phase := by simp [VideoState.setEntry]
@[simp] theorem VideoState.setEntry_line (i : Nat) (c : RGB) : (v.setEntry i c).line = v.line := by simp [VideoState.setEntry]
@[simp] theorem VideoState.setEntry_deadline (i : Nat) (c : RGB) : (v.setEntry i c).deadline = v.deadline := by simp [VideoState.setEntry]
@[simp] theorem VideoState.setEntry_tpf (i : Nat) (c : RGB) : (v.setEntry i c).tpf = v.tpf := by simp [VideoState.setEntry]
@[simp] theorem VideoState.setEntry_quit (i : Nat) (c : RGB) : (v.setEntry i c).quit = v.quit := by simp [VideoState.setEntry]
@[simp] theorem VideoState.setEntry_fault (i : Nat) (c : RGB) : (v.setEntry i c).fault = v.fault := by simp [VideoState.setEntry]
@[simp] theorem VideoState.setEntry_now (i : Nat) (c : RGB) : (v.setEntry i c).now = v.now := by simp [VideoState.setEntry]
@[simp] theorem VideoState.setEntry_presentReady (i : Nat) (c : RGB) : (v.setEntry i c).presentReady = v.presentReady := by simp [VideoState.setEntry]
@[simp] theorem VideoState.setEntry_vcmd (i : Nat) (c : RGB) : (v.setEntry i c).vcmd = v.vcmd := by simp [VideoState.setEntry]
@[simp] theorem VideoState.setEntry_vrsp (i : Nat) (c : RGB) : (v.setEntry i c).vrsp = v.vrsp := by simp [VideoState.setEntry]
@[simp] theorem VideoState.setEntry_events (i : Nat) (c : RGB) : (v.setEntry i c).events = v.events := by simp [VideoState.setEntry]

@[simp] theorem VideoState.paintPalette_fb0 (p : Nat → Option RGB) : (v.paintPalette p).fb0 = v.fb0 := by simp [VideoState.paintPalette]
@[simp] theorem VideoState.paintPalette_fb1 (p : Nat → Option RGB) : (v.paintPalette p).fb1 = v.fb1 := by simp [VideoState.paintPalette]
@[simp] theorem VideoState.paintPalette_fbsel (p : Nat → Option RGB) : (v.paintPalette p).fbsel = v.fbsel := by simp [VideoState.paintPalette]
@[simp] theorem VideoState.paintPalette_pal0 (p : Nat → Option RGB) : (v.paintPalette p).pal0 = if v.palsel then memPaint RGB.black v.palBack p 256 else v.pal0 := by simp [VideoState.paintPalette]
@[simp] theorem VideoState.paintPalette_pal1 (p : Nat → Option RGB) : (v.paintPalette p).pal1 = if v.palsel then v.pal1 else memPaint RGB.black v.palBack p 256 := by simp [VideoState.paintPalette]
@[simp] theorem VideoState.paintPalette_palsel (p : Nat → Option RGB) : (v.paintPalette p).palsel = v.palsel := by simp [VideoState.paintPalette]
@[simp] theorem VideoState.paintPalette_phase (p : Nat → Option RGB) : (v.paintPalette p).phase = v.phase := by simp [VideoState.paintPalette]
@[simp] theorem VideoState.paintPalette_line (p : Nat → Option RGB) : (v.paintPalette p).line = v.line := by simp [VideoState.paintPalette]
@[simp] theorem VideoState.paintPalette_deadline (p : Nat → Option RGB) : (v.paintPalette p).deadline = v.deadline := by simp [VideoState.paintPalette]
@[simp] theorem VideoState.paintPalette_tpf (p : Nat → Option RGB) : (v.paintPalette p).tpf = v.tpf := by simp [VideoState.paintPalette]
@[simp] theorem VideoState.paintPalette_quit (p : Nat → Option RGB) : (v.paintPalette p).quit = v.quit := by simp [VideoState.paintPalette]
@[simp] theorem VideoState.paintPalette_fault (p : Nat → Option RGB) : (v.paintPalette p).fault = v.fault := by simp [VideoState.paintPalette]
@[simp] theorem VideoState.paintPalette_now (p : Nat → Option RGB) : (v.paintPalette p).now = v.now := by simp [VideoState.paintPalette]
@[simp] theorem VideoState.paintPalette_presentReady (p : Nat → Option RGB) : (v.paintPalette p).presentReady = v.presentReady := by simp [VideoState.paintPalette]
@[simp] theorem VideoState.paintPalette_vcmd (p : Nat → Option RGB) : (v.paintPalette p).vcmd = v.vcmd := by simp [VideoState.paintPalette]
@[simp] theorem VideoState.paintPalette_vrsp (p : Nat → Option RGB) : (v.paintPalette p).vrsp = v.vrsp := by simp [VideoState.paintPalette]
@[simp] theorem VideoState.paintPalette_events (p : Nat → Option RGB) : (v.paintPalette p).events = v.events := by simp [VideoState.paintPalette]

variable (c : Config)

@[simp] theorem VideoState.drawShape_fb0 (p : Int → Int → Option Byte) : 
    (v.drawShape c p).fb0 = if v.fbsel then memPaint 0 v.fbBack (fun o => p (pixelX c o) (pixelY c o)) (c.w * c.h) else v.fb0 := 
    by simp [VideoState.drawShape]
@[simp] theorem VideoState.drawShape_fb1 (p : Int → Int → Option Byte) : 
    (v.drawShape c p).fb1 = if v.fbsel then v.fb1 else memPaint 0 v.fbBack (fun o => p (pixelX c o) (pixelY c o)) (c.w * c.h) := 
    by simp [VideoState.drawShape]
@[simp] theorem VideoState.drawShape_fbsel (p : Int → Int → Option Byte) : (v.drawShape c p).fbsel = v.fbsel := by simp [VideoState.drawShape]
@[simp] theorem VideoState.drawShape_pal0 (p : Int → Int → Option Byte) : (v.drawShape c p).pal0 = v.pal0 := by simp [VideoState.drawShape]
@[simp] theorem VideoState.drawShape_pal1 (p : Int → Int → Option Byte) : (v.drawShape c p).pal1 = v.pal1 := by simp [VideoState.drawShape]
@[simp] theorem VideoState.drawShape_palsel (p : Int → Int → Option Byte) : (v.drawShape c p).palsel = v.palsel := by simp [VideoState.drawShape]
@[simp] theorem VideoState.drawShape_phase (p : Int → Int → Option Byte) : (v.drawShape c p).phase = v.phase := by simp [VideoState.drawShape]
@[simp] theorem VideoState.drawShape_line (p : Int → Int → Option Byte) : (v.drawShape c p).line = v.line := by simp [VideoState.drawShape]
@[simp] theorem VideoState.drawShape_deadline (p : Int → Int → Option Byte) : (v.drawShape c p).deadline = v.deadline := by simp [VideoState.drawShape]
@[simp] theorem VideoState.drawShape_tpf (p : Int → Int → Option Byte) : (v.drawShape c p).tpf = v.tpf := by simp [VideoState.drawShape]
@[simp] theorem VideoState.drawShape_quit (p : Int → Int → Option Byte) : (v.drawShape c p).quit = v.quit := by simp [VideoState.drawShape]
@[simp] theorem VideoState.drawShape_fault (p : Int → Int → Option Byte) : (v.drawShape c p).fault = v.fault := by simp [VideoState.drawShape]
@[simp] theorem VideoState.drawShape_now (p : Int → Int → Option Byte) : (v.drawShape c p).now = v.now := by simp [VideoState.drawShape]
@[simp] theorem VideoState.drawShape_presentReady (p : Int → Int → Option Byte) : (v.drawShape c p).presentReady = v.presentReady := by simp [VideoState.drawShape]
@[simp] theorem VideoState.drawShape_vcmd (p : Int → Int → Option Byte) : (v.drawShape c p).vcmd = v.vcmd := by simp [VideoState.drawShape]
@[simp] theorem VideoState.drawShape_vrsp (p : Int → Int → Option Byte) : (v.drawShape c p).vrsp = v.vrsp := by simp [VideoState.drawShape]
@[simp] theorem VideoState.drawShape_events (p : Int → Int → Option Byte) : (v.drawShape c p).events = v.events := by simp [VideoState.drawShape]

@[simp] theorem VideoState.enterFrame_fb0 : v.enterFrame.fb0 = v.fb0 := by unfold VideoState.enterFrame; split <;> rfl
@[simp] theorem VideoState.hookReturn_fb0 : (v.hookReturn c).fb0 = v.fb0 := by
  unfold VideoState.hookReturn; repeat' split
  all_goals rfl
@[simp] theorem VideoState.enterFrame_fb1 : v.enterFrame.fb1 = v.fb1 := by unfold VideoState.enterFrame; split <;> rfl
@[simp] theorem VideoState.hookReturn_fb1 : (v.hookReturn c).fb1 = v.fb1 := by
  unfold VideoState.hookReturn; repeat' split
  all_goals rfl
@[simp] theorem VideoState.enterFrame_fbsel : v.enterFrame.fbsel = v.fbsel := by unfold VideoState.enterFrame; split <;> rfl
@[simp] theorem VideoState.hookReturn_fbsel : (v.hookReturn c).fbsel = v.fbsel := by
  unfold VideoState.hookReturn; repeat' split
  all_goals rfl
@[simp] theorem VideoState.enterFrame_pal0 : v.enterFrame.pal0 = v.pal0 := by unfold VideoState.enterFrame; split <;> rfl
@[simp] theorem VideoState.hookReturn_pal0 : (v.hookReturn c).pal0 = v.pal0 := by
  unfold VideoState.hookReturn; repeat' split
  all_goals rfl
@[simp] theorem VideoState.enterFrame_pal1 : v.enterFrame.pal1 = v.pal1 := by unfold VideoState.enterFrame; split <;> rfl
@[simp] theorem VideoState.hookReturn_pal1 : (v.hookReturn c).pal1 = v.pal1 := by
  unfold VideoState.hookReturn; repeat' split
  all_goals rfl
@[simp] theorem VideoState.enterFrame_palsel : v.enterFrame.palsel = v.palsel := by unfold VideoState.enterFrame; split <;> rfl
@[simp] theorem VideoState.hookReturn_palsel : (v.hookReturn c).palsel = v.palsel := by
  unfold VideoState.hookReturn; repeat' split
  all_goals rfl
@[simp] theorem VideoState.enterFrame_deadline : v.enterFrame.deadline = v.deadline := by unfold VideoState.enterFrame; split <;> rfl
@[simp] theorem VideoState.hookReturn_deadline : (v.hookReturn c).deadline = v.deadline := by
  unfold VideoState.hookReturn; repeat' split
  all_goals rfl
@[simp] theorem VideoState.enterFrame_tpf : v.enterFrame.tpf = v.tpf := by unfold VideoState.enterFrame; split <;> rfl
@[simp] theorem VideoState.hookReturn_tpf : (v.hookReturn c).tpf = v.tpf := by
  unfold VideoState.hookReturn; repeat' split
  all_goals rfl
@[simp] theorem VideoState.enterFrame_quit : v.enterFrame.quit = v.quit := by unfold VideoState.enterFrame; split <;> rfl
@[simp] theorem VideoState.hookReturn_quit : (v.hookReturn c).quit = v.quit := by
  unfold VideoState.hookReturn; repeat' split
  all_goals rfl
@[simp] theorem VideoState.enterFrame_fault : v.enterFrame.fault = v.fault := by unfold VideoState.enterFrame; split <;> rfl
@[simp] theorem VideoState.hookReturn_fault : (v.hookReturn c).fault = v.fault := by
  unfold VideoState.hookReturn; repeat' split
  all_goals rfl
@[simp] theorem VideoState.enterFrame_now : v.enterFrame.now = v.now := by unfold VideoState.enterFrame; split <;> rfl
@[simp] theorem VideoState.hookReturn_now : (v.hookReturn c).now = v.now := by
  unfold VideoState.hookReturn; repeat' split
  all_goals rfl
@[simp] theorem VideoState.enterFrame_presentReady : v.enterFrame.presentReady = v.presentReady := by unfold VideoState.enterFrame; split <;> rfl
@[simp] theorem VideoState.hookReturn_presentReady : (v.hookReturn c).presentReady = v.presentReady := by
  unfold VideoState.hookReturn; repeat' split
  all_goals rfl
@[simp] theorem VideoState.enterFrame_vcmd : v.enterFrame.vcmd = v.vcmd := by unfold VideoState.enterFrame; split <;> rfl
@[simp] theorem VideoState.hookReturn_vcmd : (v.hookReturn c).vcmd = v.vcmd := by
  unfold VideoState.hookReturn; repeat' split
  all_goals rfl
@[simp] theorem VideoState.enterFrame_vrsp : v.enterFrame.vrsp = v.vrsp := by unfold VideoState.enterFrame; split <;> rfl
@[simp] theorem VideoState.hookReturn_vrsp : (v.hookReturn c).vrsp = v.vrsp := by
  unfold VideoState.hookReturn; repeat' split
  all_goals rfl

end VideoFields

section AudioFields

variable (a : AudioState)

@[simp] theorem AudioState.swapRoles_voices : (a.swapRoles).voices = a.voices := rfl
@[simp] theorem AudioState.swapRoles_abuf0 : (a.swapRoles).abuf0 = a.abuf0 := rfl
@[simp] theorem AudioState.swapRoles_abuf1 : (a.swapRoles).abuf1 = a.abuf1 := rfl
@[simp] theorem AudioState.swapRoles_asel : (a.swapRoles).asel = !a.asel := rfl
@[simp] theorem AudioState.swapRoles_aready : (a.swapRoles).aready = false := rfl
@[simp] theorem AudioState.swapRoles_span : (a.swapRoles).span = a.span := rfl
@[simp] theorem AudioState.swapRoles_fillActive : (a.swapRoles).fillActive = a.fillActive := rfl
@[simp] theorem AudioState.swapRoles_fillN : (a.swapRoles).fillN = a.fillN := rfl
@[simp] theorem AudioState.swapRoles_fault : (a.swapRoles).fault = a.fault := rfl
@[simp] theorem AudioState.swapRoles_acmd : (a.swapRoles).acmd = a.acmd := rfl
@[simp] theorem AudioState.swapRoles_arsp : (a.swapRoles).arsp = a.arsp := rfl
@[simp] theorem AudioState.swapRoles_events : (a.swapRoles).events = a.events := rfl
@[simp] theorem AudioState.swapRoles_draws : (a.swapRoles).draws = a.draws := rfl

@[simp] theorem AudioState.setAbufBack_voices (m : List (Nat × Sample)) : (a.setAbufBack m).voices = a.voices := by unfold AudioState.setAbufBack; split <;> rfl
@[simp] theorem AudioState.setAbufBack_abuf0 (m : List (Nat × Sample)) : (a.setAbufBack m).abuf0 = if a.asel then m else a.abuf0 := by unfold AudioState.setAbufBack; split <;> rfl
@[simp] theorem AudioState.setAbufBack_abuf1 (m : List (Nat × Sample)) : (a.setAbufBack m).abuf1 = if a.asel then a.abuf1 else m := by unfold AudioState.setAbufBack; split <;> rfl
@[simp] theorem AudioState.setAbufBack_asel (m : List (Nat × Sample)) : (a.setAbufBack m).asel = a.asel := by unfold AudioState.setAbufBack; split <;> rfl
@[simp] theorem AudioState.setAbufBack_aready (m : List (Nat × Sample)) : (a.setAbufBack m).aready = a.aready := by unfold AudioState.setAbufBack; split <;> rfl
@[simp] theorem AudioState.setAbufBack_span (m : List (Nat × Sample)) : (a.setAbufBack m).span = a.span := by unfold AudioState.setAbufBack; split <;> rfl
@[simp] theorem AudioState.setAbufBack_fillActive (m : List (Nat × Sample)) : (a.setAbufBack m).fillActive = a.fillActive := by unfold AudioState.setAbufBack; split <;> rfl
@[simp] theorem AudioState.setAbufBack_fillN (m : List (Nat × Sample)) : (a.setAbufBack m).fillN = a.fillN := by unfold AudioState.setAbufBack; split <;> rfl
@[simp] theorem AudioState.setAbufBack_fault (m : List (Nat × Sample)) : (a.setAbufBack m).fault = a.fault := by unfold AudioState.setAbufBack; split <;> rfl
@[simp] theorem AudioState.setAbufBack_acmd (m : List (Nat × Sample)) : (a.setAbufBack m).acmd = a.acmd := by unfold AudioState.setAbufBack; split <;> rfl
@[simp] theorem AudioState.setAbufBack_arsp (m : List (Nat × Sample)) : (a.setAbufBack m).arsp = a.arsp := by unfold AudioState.setAbufBack; split <;> rfl
@[simp] theorem AudioState.setAbufBack_events (m : List (Nat × Sample)) : (a.setAbufBack m).events = a.events := by unfold AudioState.setAbufBack; split <;> rfl
@[simp] theorem AudioState.setAbufBack_draws (m : List (Nat × Sample)) : (a.setAbufBack m).draws = a.draws := by unfold AudioState.setAbufBack; split <;> rfl

@[simp] theorem AudioState.loadSpan_voices (n : Nat) (g : Nat → Sample) : (a.loadSpan n g).voices = a.voices := rfl
@[simp] theorem AudioState.loadSpan_abuf0 (n : Nat) (g : Nat → Sample) : (a.loadSpan n g).abuf0 = a.abuf0 := rfl
@[simp] theorem AudioState.loadSpan_abuf1 (n : Nat) (g : Nat → Sample) : (a.loadSpan n g).abuf1 = a.abuf1 := rfl
@[simp] theorem AudioState.loadSpan_asel (n : Nat) (g : Nat → Sample) : (a.loadSpan n g).asel = a.asel := rfl
@[simp] theorem AudioState.loadSpan_aready (n : Nat) (g : Nat → Sample) : (a.loadSpan n g).aready = a.aready := rfl
@[simp] theorem AudioState.loadSpan_span (n : Nat) (g : Nat → Sample) : (a.loadSpan n g).span = (List.range n).map g ++ a.span.drop n := rfl
@[simp] theorem AudioState.loadSpan_fillActive (n : Nat) (g : Nat → Sample) : (a.loadSpan n g).fillActive = a.fillActive := rfl
@[simp] theorem AudioState.loadSpan_fillN (n : Nat) (g : Nat → Sample) : (a.loadSpan n g).fillN = a.fillN := rfl
@[simp] theorem AudioState.loadSpan_fault (n : Nat) (g : Nat → Sample) : (a.loadSpan n g).fault = a.fault := rfl
@[simp] theorem AudioState.loadSpan_acmd (n : Nat) (g : Nat → Sample) : (a.loadSpan n g).acmd = a.acmd := rfl
@[simp] theorem AudioState.loadSpan_arsp (n : Nat) (g : Nat → Sample) : (a.loadSpan n g).arsp = a.arsp := rfl
@[simp] theorem AudioState.loadSpan_events (n : Nat) (g : Nat → Sample) : (a.loadSpan n g).events = a.events := rfl
@[simp] theorem AudioState.loadSpan_draws (n : Nat) (g : Nat → Sample) : (a.loadSpan n g).draws = a.draws := rfl

@[simp] theorem AudioState.emit_voices (e : AEvent) : (a.emit e).voices = a.voices := rfl
@[simp] theorem AudioState.emit_abuf0 (e : AEvent) : (a.emit e).abuf0 = a.abuf0 := rfl
@[simp] theorem AudioState.emit_abuf1 (e : AEvent) : (a.emit e).abuf1 = a.abuf1 := rfl
@[simp] theorem AudioState.emit_asel (e : AEvent) : (a.emit e).asel = a.asel := rfl
@[simp] theorem AudioState.emit_aready (e : AEvent) : (a.emit e).aready = a.aready := rfl
@[simp] theorem AudioState.emit_span (e : AEvent) : (a.emit e).span = a.span := rfl
@[simp] theorem AudioState.emit_fillActive (e : AEvent) : (a.emit e).fillActive = a.fillActive := rfl
@[simp] theorem AudioState.emit_fillN (e : AEvent) : (a.emit e).fillN = a.fillN := rfl
@[simp] theorem AudioState.emit_fault (e : AEvent) : (a.emit e).fault = a.fault := rfl
@[simp] theorem AudioState.emit_acmd (e : AEvent) : (a.emit e).acmd = a.acmd := rfl
@[simp] theorem AudioState.emit_arsp (e : AEvent) : (a.emit e).arsp = a.arsp := rfl
@[simp] theorem AudioState.emit_events (e : AEvent) : (a.emit e).events = a.events ++ [e] := rfl
@[simp] theorem AudioState.emit_draws (e : AEvent) : (a.emit e).draws = a.draws := rfl

@[simp] theorem AudioState.deliver_voices (n : Nat) : (a.deliver n).voices = a.voices := rfl
@[simp] theorem AudioState.deliver_abuf0 (n : Nat) : (a.deliver n).abuf0 = a.abuf0 := rfl
@[simp] theorem AudioState.deliver_abuf1 (n : Nat) : (a.deliver n).abuf1 = a.abuf1 := rfl
@[simp] theorem AudioState.deliver_asel (n : Nat) : (a.deliver n).asel = a.asel := rfl
@[simp] theorem AudioState.deliver_aready (n : Nat) : (a.deliver n).aready = a.aready := rfl
@[simp] theorem AudioState.deliver_span (n : Nat) : (a.deliver n).span = a.span := rfl
@[simp] theorem AudioState.deliver_fillActive (n : Nat) : (a.deliver n).fillActive = a.fillActive := rfl
@[simp] theorem AudioState.deliver_fillN (n : Nat) : (a.deliver n).fillN = a.fillN := rfl
@[simp] theorem AudioState.deliver_fault (n : Nat) : (a.deliver n).fault = a.fault := rfl
@[simp] theorem AudioState.deliver_acmd (n : Nat) : (a.deliver n).acmd = a.acmd := rfl
@[simp] theorem AudioState.deliver_arsp (n : Nat) : (a.deliver n).arsp = a.arsp := rfl
@[simp] theorem AudioState.deliver_events (n : Nat) : (a.deliver n).events = a.events ++ [.deliver (a.spanList n)] := rfl
@[simp] theorem AudioState.deliver_draws (n : Nat) : (a.deliver n).draws = a.draws := rfl

@[simp] theorem AudioState.respond_voices (f : Fmt) (r : FReal) : (a.respond f r).voices = a.voices := rfl
@[simp] theorem AudioState.respond_abuf0 (f : Fmt) (r : FReal) : (a.respond f r).abuf0 = a.abuf0 := rfl
@[simp] theorem AudioState.respond_abuf1 (f : Fmt) (r : FReal) : (a.respond f r).abuf1 = a.abuf1 := rfl
@[simp] theorem AudioState.respond_asel (f : Fmt) (r : FReal) : (a.respond f r).asel = a.asel := rfl
@[simp] theorem AudioState.respond_aready (f : Fmt) (r : FReal) : (a.respond f r).aready = a.aready := rfl
@[simp] theorem AudioState.respond_span (f : Fmt) (r : FReal) : (a.respond f r).span = a.span := rfl
@[simp] theorem AudioState.respond_fillActive (f : Fmt) (r : FReal) : (a.respond f r).fillActive = a.fillActive := rfl
@[simp] theorem AudioState.respond_fillN (f : Fmt) (r : FReal) : (a.respond f r).fillN = a.fillN := rfl
@[simp] theorem AudioState.respond_fault (f : Fmt) (r : FReal) : (a.respond f r).fault = a.fault := rfl
@[simp] theorem AudioState.respond_acmd (f : Fmt) (r : FReal) : (a.respond f r).acmd = a.acmd := rfl
@[simp] theorem AudioState.respond_arsp (f : Fmt) (r : FReal) : (a.respond f r).arsp = a.arsp ++ realWords f r := rfl
@[simp] theorem AudioState.respond_events (f : Fmt) (r : FReal) : (a.respond f r).events = a.events ++ [.arsp (realWords f r)] := rfl
@[simp] theorem AudioState.respond_draws (f : Fmt) (r : FReal) : (a.respond f r).draws = a.draws := rfl

@[simp] theorem AudioState.closeFill_voices : a.closeFill.voices = a.voices := by
  unfold AudioState.closeFill; split <;> simp_all
@[simp] theorem AudioState.raise_voices (k : Cause) : (a.raise k).voices = a.voices := by simp [AudioState.raise]
@[simp] theorem AudioState.closeFill_abuf0 : a.closeFill.abuf0 = a.abuf0 := by
  unfold AudioState.closeFill; split <;> simp_all
@[simp] theorem AudioState.raise_abuf0 (k : Cause) : (a.raise k).abuf0 = a.abuf0 := by simp [AudioState.raise]
@[simp] theorem AudioState.closeFill_abuf1 : a.closeFill.abuf1 = a.abuf1 := by
  unfold AudioState.closeFill; split <;> simp_all
@[simp] theorem AudioState.raise_abuf1 (k : Cause) : (a.raise k).abuf1 = a.abuf1 := by simp [AudioState.raise]
@[simp] theorem AudioState.closeFill_asel : a.closeFill.asel = a.asel := by
  unfold AudioState.closeFill; split <;> simp_all
@[simp] theorem AudioState.raise_asel (k : Cause) : (a.raise k).asel = a.asel := by simp [AudioState.raise]
@[simp] theorem AudioState.closeFill_aready : a.closeFill.aready = a.aready := by
  unfold AudioState.closeFill; split <;> simp_all
@[simp] theorem AudioState.raise_aready (k : Cause) : (a.raise k).aready = a.aready := by simp [AudioState.raise]
@[simp] theorem AudioState.closeFill_fillActive : a.closeFill.fillActive = false := by
  unfold AudioState.closeFill; split <;> simp_all
@[simp] theorem AudioState.raise_fillActive (k : Cause) : (a.raise k).fillActive = false := by simp [AudioState.raise]
@[simp] theorem AudioState.closeFill_fillN : a.closeFill.fillN = a.fillN := by
  unfold AudioState.closeFill; split <;> simp_all
@[simp] theorem AudioState.raise_fillN (k : Cause) : (a.raise k).fillN = a.fillN := by simp [AudioState.raise]
@[simp] theorem AudioState.closeFill_fault : a.closeFill.fault = a.fault := by
  unfold AudioState.closeFill; split <;> simp_all
@[simp] theorem AudioState.raise_fault (k : Cause) : (a.raise k).fault = a.fault.raise k := by simp [AudioState.raise]
@[simp] theorem AudioState.closeFill_acmd : a.closeFill.acmd = a.acmd := by
  unfold AudioState.closeFill; split <;> simp_all
@[simp] theorem AudioState.raise_acmd (k : Cause) : (a.raise k).acmd = a.acmd := by simp [AudioState.raise]
@[simp] theorem AudioState.closeFill_arsp : a.closeFill.arsp = a.arsp := by
  unfold AudioState.closeFill; split <;> simp_all
@[simp] theorem AudioState.raise_arsp (k : Cause) : (a.raise k).arsp = a.arsp := by simp [AudioState.raise]
@[simp] theorem AudioState.closeFill_draws : a.closeFill.draws = a.draws := by
  unfold AudioState.closeFill; split <;> simp_all
@[simp] theorem AudioState.raise_draws (k : Cause) : (a.raise k).draws = a.draws := by simp [AudioState.raise]

@[simp] theorem AudioState.fillReturn_voices (e : Bool) : (a.fillReturn e).voices = a.voices := by
  unfold AudioState.fillReturn; split <;> simp
@[simp] theorem AudioState.fillReturn_abuf0 (e : Bool) : (a.fillReturn e).abuf0 = a.abuf0 := by
  unfold AudioState.fillReturn; split <;> simp
@[simp] theorem AudioState.fillReturn_abuf1 (e : Bool) : (a.fillReturn e).abuf1 = a.abuf1 := by
  unfold AudioState.fillReturn; split <;> simp
@[simp] theorem AudioState.fillReturn_asel (e : Bool) : (a.fillReturn e).asel = a.asel := by
  unfold AudioState.fillReturn; split <;> simp
@[simp] theorem AudioState.fillReturn_aready (e : Bool) : (a.fillReturn e).aready = a.aready := by
  unfold AudioState.fillReturn; split <;> simp
@[simp] theorem AudioState.fillReturn_fillActive (e : Bool) : (a.fillReturn e).fillActive = false := by
  unfold AudioState.fillReturn; split <;> simp
@[simp] theorem AudioState.fillReturn_fillN (e : Bool) : (a.fillReturn e).fillN = a.fillN := by
  unfold AudioState.fillReturn; split <;> simp
@[simp] theorem AudioState.fillReturn_fault (e : Bool) : (a.fillReturn e).fault = a.fault := by
  unfold AudioState.fillReturn; split <;> simp
@[simp] theorem AudioState.fillReturn_acmd (e : Bool) : (a.fillReturn e).acmd = a.acmd := by
  unfold AudioState.fillReturn; split <;> simp
@[simp] theorem AudioState.fillReturn_arsp (e : Bool) : (a.fillReturn e).arsp = a.arsp := by
  unfold AudioState.fillReturn; split <;> simp
@[simp] theorem AudioState.fillReturn_draws (e : Bool) : (a.fillReturn e).draws = a.draws := by
  unfold AudioState.fillReturn; split <;> simp

@[simp] theorem AudioState.putVoice_voices (f : Fmt) (v : Byte) (r : VoiceResult) :
    (a.putVoice f v r).voices = a.voices.set v.toNat r.voice := by
  unfold AudioState.putVoice; split <;> rfl
@[simp] theorem AudioState.putVoice_abuf0 (f : Fmt) (v : Byte) (r : VoiceResult) :
    (a.putVoice f v r).abuf0 = a.abuf0 := by
  unfold AudioState.putVoice; split <;> rfl
@[simp] theorem AudioState.putVoice_abuf1 (f : Fmt) (v : Byte) (r : VoiceResult) :
    (a.putVoice f v r).abuf1 = a.abuf1 := by
  unfold AudioState.putVoice; split <;> rfl
@[simp] theorem AudioState.putVoice_asel (f : Fmt) (v : Byte) (r : VoiceResult) :
    (a.putVoice f v r).asel = a.asel := by
  unfold AudioState.putVoice; split <;> rfl
@[simp] theorem AudioState.putVoice_aready (f : Fmt) (v : Byte) (r : VoiceResult) :
    (a.putVoice f v r).aready = a.aready := by
  unfold AudioState.putVoice; split <;> rfl
@[simp] theorem AudioState.putVoice_span (f : Fmt) (v : Byte) (r : VoiceResult) :
    (a.putVoice f v r).span = a.span := by
  unfold AudioState.putVoice; split <;> rfl
@[simp] theorem AudioState.putVoice_fillActive (f : Fmt) (v : Byte) (r : VoiceResult) :
    (a.putVoice f v r).fillActive = a.fillActive := by
  unfold AudioState.putVoice; split <;> rfl
@[simp] theorem AudioState.putVoice_fillN (f : Fmt) (v : Byte) (r : VoiceResult) :
    (a.putVoice f v r).fillN = a.fillN := by
  unfold AudioState.putVoice; split <;> rfl
@[simp] theorem AudioState.putVoice_fault (f : Fmt) (v : Byte) (r : VoiceResult) :
    (a.putVoice f v r).fault = a.fault := by
  unfold AudioState.putVoice; split <;> rfl
@[simp] theorem AudioState.putVoice_acmd (f : Fmt) (v : Byte) (r : VoiceResult) :
    (a.putVoice f v r).acmd = a.acmd := by
  unfold AudioState.putVoice; split <;> rfl
@[simp] theorem AudioState.putVoice_draws (f : Fmt) (v : Byte) (r : VoiceResult) :
    (a.putVoice f v r).draws = a.draws + r.drawn := by
  unfold AudioState.putVoice; split <;> rfl

end AudioFields

/-! ### The audio domain's reset, with and without an audio domain (R12, R62) -/

@[simp] theorem AudioState.resetWith_absent {c : Config} (h : c.sr = 0) (d : Nat) (es : List AEvent) :
    AudioState.resetWith c d es = .absent d es := if_pos h

@[simp] theorem AudioState.resetWith_present {c : Config} (h : c.sr ≠ 0) (d : Nat) (es : List AEvent) :
    AudioState.resetWith c d es = .present c d es := if_neg h

@[simp] theorem AudioState.resetWith_events (c : Config) (d : Nat) (es : List AEvent) :
    (AudioState.resetWith c d es).events = es := by unfold AudioState.resetWith; split <;> rfl

@[simp] theorem AudioState.resetWith_fault (c : Config) (d : Nat) (es : List AEvent) :
    (AudioState.resetWith c d es).fault = .clear := by unfold AudioState.resetWith; split <;> rfl

end Sys2Proof.Machine
end

