-- ==== Sys2Proof/Laws/Ops.lean ====
section
/-! SUPPORT. One lemma per shared operation that says once everything it can do: the memories by role, the
frames of the meanings, the faults. -/

namespace Sys2Proof.Machine

/-! ### The memories by role -/

@[simp] theorem VideoState.fbBack_setFbBack (v : VideoState) (m : List Host.Cell) :
    (v.setFbBack m).fbBack = m := by unfold setFbBack fbBack; split <;> simp_all

@[simp] theorem VideoState.fbFront_setFbBack (v : VideoState) (m : List Host.Cell) :
    (v.setFbBack m).fbFront = v.fbFront := by unfold setFbBack fbFront; split <;> simp_all

@[simp] theorem VideoState.palBack_setFbBack (v : VideoState) (m : List Host.Cell) :
    (v.setFbBack m).palBack = v.palBack := by simp [palBack]

@[simp] theorem VideoState.palFront_setFbBack (v : VideoState) (m : List Host.Cell) :
    (v.setFbBack m).palFront = v.palFront := by simp [palFront]

@[simp] theorem VideoState.palBack_setPalBack (v : VideoState) (m : List (Nat × RGB)) :
    (v.setPalBack m).palBack = m := by unfold setPalBack palBack; split <;> simp_all

@[simp] theorem VideoState.palFront_setPalBack (v : VideoState) (m : List (Nat × RGB)) :
    (v.setPalBack m).palFront = v.palFront := by unfold setPalBack palFront; split <;> simp_all

@[simp] theorem VideoState.fbBack_setPalBack (v : VideoState) (m : List (Nat × RGB)) :
    (v.setPalBack m).fbBack = v.fbBack := by simp [fbBack]

@[simp] theorem VideoState.fbFront_setPalBack (v : VideoState) (m : List (Nat × RGB)) :
    (v.setPalBack m).fbFront = v.fbFront := by simp [fbFront]

@[simp] theorem AudioState.abufBack_setAbufBack (a : AudioState) (m : List (Nat × Sample)) :
    (a.setAbufBack m).abufBack = m := by unfold setAbufBack abufBack; split <;> simp_all

@[simp] theorem AudioState.abufFront_setAbufBack (a : AudioState) (m : List (Nat × Sample)) :
    (a.setAbufBack m).abufFront = a.abufFront := by unfold setAbufBack abufFront; split <;> simp_all

/-- A pixel write: that pixel, and no other (R75). -/
theorem VideoState.pixel_setPixel (v : VideoState) (o : Nat) (i : Byte) (b : Nat) :
    (v.setPixel o i).pixel b = if b = o then i else v.pixel b := by
  simp [setPixel, pixel, memRead_write]

/-- A drawn shape: its pixels inside the framebuffer, and no other (R138). -/
theorem VideoState.pixel_drawShape (c : Config) (v : VideoState) (p : Int → Int → Option Byte) (b : Nat) :
    (v.drawShape c p).pixel b =
      if b < c.w * c.h then (p (pixelX c b) (pixelY c b)).getD (v.pixel b) else v.pixel b := by
  simp [drawShape, pixel, memRead_paint]

theorem VideoState.entry_setEntry (v : VideoState) (i : Nat) (c : RGB) (b : Nat) :
    (v.setEntry i c).entry b = if b = i then c else v.entry b := by
  simp [setEntry, entry, memRead_write]

theorem VideoState.entry_paintPalette (v : VideoState) (p : Nat → Option RGB) (b : Nat) :
    (v.paintPalette p).entry b = if b < 256 then (p b).getD (v.entry b) else v.entry b := by
  simp [paintPalette, entry, memRead_paint]

@[simp] theorem VideoState.shownPixel_setPixel (v : VideoState) (o : Nat) (i : Byte) (b : Nat) :
    (v.setPixel o i).shownPixel b = v.shownPixel b := by simp [setPixel, shownPixel]

@[simp] theorem VideoState.shownPixel_drawShape (c : Config) (v : VideoState) (p : Int → Int → Option Byte)
    (b : Nat) : (v.drawShape c p).shownPixel b = v.shownPixel b := by simp [drawShape, shownPixel]

@[simp] theorem VideoState.shownEntry_setEntry (v : VideoState) (i : Nat) (c : RGB) (b : Nat) :
    (v.setEntry i c).shownEntry b = v.shownEntry b := by simp [setEntry, shownEntry]

@[simp] theorem VideoState.shownEntry_paintPalette (v : VideoState) (p : Nat → Option RGB) (b : Nat) :
    (v.paintPalette p).shownEntry b = v.shownEntry b := by simp [paintPalette, shownEntry]

/-- The samples of a freshly loaded span. -/
@[simp] theorem AudioState.spanList_loadSpan (a : AudioState) (n : Nat) (g : Nat → Sample) :
    (a.loadSpan n g).spanList n = (List.range n).map g := by
  unfold spanList
  rw [AudioState.loadSpan_span]
  refine List.map_congr_left fun i hi => ?_
  have hi : i < n := List.mem_range.mp hi
  rw [List.getD_append _ _ _ _ (by simpa using hi)]
  simp [List.getD, hi]

@[simp] theorem AudioState.length_spanList (a : AudioState) (n : Nat) : (a.spanList n).length = n := by
  simp [spanList]

theorem AudioState.length_loadSpan (a : AudioState) (n : Nat) (g : Nat → Sample) (h : n ≤ a.span.length) :
    (a.loadSpan n g).span.length = a.span.length := by simp; omega

/-! ### Latches -/

@[simp] theorem FaultLatch.raise_valid (l : FaultLatch) (k : Cause) : (l.raise k).valid = true := by
  unfold FaultLatch.raise; split <;> simp_all

theorem FaultLatch.raise_clear {l : FaultLatch} (h : l.valid = false) (k : Cause) :
    l.raise k = ⟨true, k.code⟩ := by simp [FaultLatch.raise, h]

/-- Raising one of the causes a domain has keeps the latch as R293 says. -/
theorem FaultLatch.within_raise {l : FaultLatch} {ks : List Cause} {k : Cause} (h : l.within ks = true)
    (hk : k ∈ ks) : (l.raise k).within ks = true := by
  unfold FaultLatch.raise
  split
  · exact h
  · simp only [FaultLatch.within, if_true, List.contains_eq_mem, decide_eq_true_eq]
    exact List.mem_map_of_mem hk

/-! ### Parameters -/

theorem Param.rd_ok {α : Type} {p : Param α} {x : α} (h : p.rd = .ok x) : p.written = true ∧ x = p.value := by
  unfold Param.rd at h; split at h <;> simp_all

theorem Param.rd_error {α : Type} {p : Param α} {k : Cause} (h : p.rd = .error k) :
    p.written = false ∧ k = .uninit := by
  unfold Param.rd at h; split at h <;> simp_all

theorem finiteOperand_ok {f : Fmt} {r x : FReal} (h : finiteOperand f r = .ok x) :
    isFinite f r = true ∧ x = r := by
  unfold finiteOperand at h; split at h <;> simp_all

/-! ### The frames of the meanings -/

/-- Everything a VCMD packet can do (R176, R290, R291): nothing in a halted domain or while held, a fault of
the phase, or its pseudocode. -/
theorem videoCommand_cases {c : VClass} {s : State} {body : VideoState → Except Cause VideoState}
    {t : State} (h : videoCommand c s body = .next t) :
    t = s ∨
    (∃ k, s.video.phase.right c = .refused k ∧ t = { s with video := s.video.raise k }) ∨
    (s.video.fault.valid = false ∧ s.video.phase.right c = .accepted ∧
      ((∃ v, body s.video = .ok v ∧ t = { s with video := v }) ∨
       (∃ k, body s.video = .error k ∧ t = { s with video := s.video.raise k }))) := by
  unfold videoCommand at h
  split at h
  · cases h; exact .inl rfl
  · next hf =>
    split at h
    · cases h; exact .inl rfl
    · next k hk => cases h; exact .inr (.inl ⟨k, hk, rfl⟩)
    · next ha =>
      cases h
      refine .inr (.inr ⟨by simpa using hf, ha, ?_⟩)
      cases hb : body s.video with
      | ok v => exact .inl ⟨v, rfl, rfl⟩
      | error k => exact .inr ⟨k, rfl, rfl⟩

/-- A VCMD packet always has a next state. -/
theorem videoCommand_next (c : VClass) (s : State) (body : VideoState → Except Cause VideoState) :
    ∃ t, videoCommand c s body = .next t := by
  unfold videoCommand; split <;> [skip; split] <;> exact ⟨_, rfl⟩

/-- A packet accepted in an unfaulted domain runs its pseudocode. -/
theorem videoCommand_accepted {c : VClass} {s : State} {body : VideoState → Except Cause VideoState}
    (hf : s.video.fault.valid = false) (hr : s.video.phase.right c = .accepted) :
    videoCommand c s body = .next { s with video := s.video.settle (body s.video) } := by
  simp [videoCommand, hf, hr]

/-- Everything a sequencer step can do (R116, R290 (d), R291). -/
theorem seqStep_cases {p : Phase} {en : VideoState → Bool} {s : State} {body : VideoState → VideoState}
    {t : State} (h : seqStep p en s body = .next t) :
    t = s ∨ (s.video.fault.valid = false ∧ s.video.phase = p ∧ en s.video = true ∧
      t = { s with video := body s.video }) := by
  unfold seqStep at h
  split at h
  · cases h; exact .inl rfl
  · next hn =>
    cases h
    simp only [not_or, ne_eq, not_not, Bool.not_eq_true, Bool.not_eq_false] at hn
    exact .inr ⟨hn.1, hn.2.1, hn.2.2, rfl⟩

theorem seqStep_next (p : Phase) (en : VideoState → Bool) (s : State) (body : VideoState → VideoState) :
    ∃ t, seqStep p en s body = .next t := by
  unfold seqStep; split <;> exact ⟨_, rfl⟩

/-- Everything an ACMD packet can do when it has a next state (R12, R292). -/
theorem audioCommand_cases {s : State} {body : AudioState → Except Cause AudioState} {t : State}
    (h : audioCommand s body = .next t) :
    t = s ∨ (s.audio.fault.valid = false ∧ s.cfg.sr ≠ 0 ∧
      ((∃ a, body s.audio = .ok a ∧ t = { s with audio := a }) ∨
       (∃ k, body s.audio = .error k ∧ t = { s with audio := s.audio.raise k }))) := by
  unfold audioCommand at h
  split at h
  · cases h
  · next hs =>
    split at h
    · cases h; exact .inl rfl
    · next hf =>
      cases h
      refine .inr ⟨by simpa using hf, hs, ?_⟩
      cases hb : body s.audio with
      | ok a => exact .inl ⟨a, rfl, rfl⟩
      | error k => exact .inr ⟨k, rfl, rfl⟩

/-- An ACMD packet runs its pseudocode when there is an audio domain and it has not faulted. -/
theorem audioCommand_accepted {s : State} {body : AudioState → Except Cause AudioState} (hs : s.cfg.sr ≠ 0)
    (hf : s.audio.fault.valid = false) :
    audioCommand s body = .next { s with audio := s.audio.settle (body s.audio) } := by
  simp [audioCommand, hs, hf]

/-- Everything a command of one voice can do when it has a next state (R108, R292). -/
theorem voiceCommand_cases {v : Byte} {s : State} {body : Voice → FReal → Except Cause VoiceResult}
    {t : State} (h : voiceCommand v s body = .next t) :
    t = s ∨ (s.audio.fault.valid = false ∧ s.cfg.sr ≠ 0 ∧
      ((s.audio.voices[v.toNat]? = none ∧ t = { s with audio := s.audio.raise .illegal }) ∨
       ∃ vc, s.audio.voices[v.toNat]? = some vc ∧
        ((∃ r, body vc (drawNoise s.cfg.fmt s.audio.draws) = .ok r ∧
            t = { s with audio := s.audio.putVoice s.cfg.fmt v r }) ∨
         (∃ k, body vc (drawNoise s.cfg.fmt s.audio.draws) = .error k ∧
            t = { s with audio := s.audio.raise k })))) := by
  unfold voiceCommand at h
  rcases audioCommand_cases h with h | ⟨hf, hs, hb⟩
  · exact .inl h
  · refine .inr ⟨hf, hs, ?_⟩
    unfold voiceOperand at hb
    cases hv : s.audio.voices[v.toNat]? with
    | none =>
      simp only [hv] at hb
      rcases hb with ⟨a, ha, -⟩ | ⟨k, hk, rfl⟩
      · cases ha
      · cases hk; exact .inl ⟨rfl, rfl⟩
    | some vc =>
      simp only [hv] at hb
      refine .inr ⟨vc, rfl, ?_⟩
      cases hr : body vc (drawNoise s.cfg.fmt s.audio.draws) with
      | ok r =>
        simp only [hr] at hb
        rcases hb with ⟨a, ha, rfl⟩ | ⟨k, hk, -⟩
        · cases ha; exact .inl ⟨r, rfl, rfl⟩
        · cases hk
      | error k =>
        simp only [hr] at hb
        rcases hb with ⟨a, ha, -⟩ | ⟨k', hk, rfl⟩
        · cases ha
        · cases hk; exact .inr ⟨k, rfl, rfl⟩

/-- A command of a voice that exists, in a running audio domain, runs its pseudocode. -/
theorem voiceCommand_ok {v : Byte} {s : State} {body : Voice → FReal → Except Cause VoiceResult}
    {vc : Voice} {r : VoiceResult} (hs : s.cfg.sr ≠ 0) (hf : s.audio.fault.valid = false)
    (hv : s.audio.voices[v.toNat]? = some vc)
    (hr : body vc (drawNoise s.cfg.fmt s.audio.draws) = .ok r) :
    voiceCommand v s body = .next { s with audio := s.audio.putVoice s.cfg.fmt v r } := by
  simp [voiceCommand, audioCommand, hs, hf, voiceOperand, hv, hr, AudioState.settle]

/-- Everything PULL can do when it has a next state (R266 to R268, R270). -/
theorem execPull_cases {n : BitVec 16} {s t : State} (h : execPull n s = .next t) :
    s.cfg.sr ≠ 0 ∧ n.toNat ≤ s.cfg.abufSize ∧
    ((s.audio.fault.valid = true ∧ t = { s with audio := s.audio.silentPull n }) ∨
     (s.audio.fault.valid = false ∧ s.cfg.audioMode = .inline ∧ s.audio.fillActive = false ∧
        t = { s with audio := s.audio.enterFill n }) ∨
     (s.audio.fault.valid = false ∧ s.cfg.audioMode = .buffered ∧
        t = { s with audio := s.audio.bufferedPull n })) := by
  unfold execPull at h
  split at h
  · cases h
  · next hs =>
    split at h
    · cases h
    · next hn =>
      refine ⟨hs, by omega, ?_⟩
      split at h
      · next hf => cases h; exact .inl ⟨hf, rfl⟩
      · next hf =>
        have hf : s.audio.fault.valid = false := by simpa using hf
        split at h
        · next hm =>
          split at h
          · cases h
          · next ha => cases h; exact .inr (.inl ⟨hf, hm, by simpa using ha, rfl⟩)
        · next hm => cases h; exact .inr (.inr ⟨hf, hm, rfl⟩)

/-! ### Rounding (R15) -/

/-- `GRAD_ROUND` goes to the integer below, or, where the value is none, to the one above. -/
theorem gradRound_cases (g : GradRound) (num : Int) (den : Nat) :
    gradRound g num den = num / den ∨ (num % den ≠ 0 ∧ gradRound g num den = num / den + 1) := by
  unfold gradRound
  simp only
  split
  · exact .inl rfl
  · split
    · exact .inl rfl
    · exact .inr ⟨‹_›, rfl⟩

end Sys2Proof.Machine
end

