-- ==== Sys2Proof/Laws/Step.lean ====
section
/-! SUPPORT. What one step can be, said once: what is fetched, which domain an instruction acts on. -/

namespace Sys2Proof.Machine

/-! ### The next move -/

@[simp] theorem State.nextMove_cfg (s : State) : s.nextMove.2.cfg = s.cfg := by
  unfold State.nextMove; split <;> [rfl; split <;> rfl]

@[simp] theorem State.nextMove_video (s : State) : s.nextMove.2.video = s.video := by
  unfold State.nextMove; split <;> [rfl; split <;> rfl]

@[simp] theorem State.nextMove_audio (s : State) : s.nextMove.2.audio = s.audio := by
  unfold State.nextMove; split <;> [rfl; split <;> rfl]

@[simp] theorem State.nextMove_inReset (s : State) : s.nextMove.2.inReset = s.inReset := by
  unfold State.nextMove; split <;> [rfl; split <;> rfl]

theorem State.nextMove_setVideo (s : State) (v : VideoState) :
    ({ s with video := v } : State).nextMove = (s.nextMove.1, { s.nextMove.2 with video := v }) := by
  unfold State.nextMove
  cases s.agenda with
  | nil => cases s.turn <;> rfl
  | cons _ _ => rfl

theorem State.nextMove_setAudio (s : State) (a : AudioState) :
    ({ s with audio := a } : State).nextMove = (s.nextMove.1, { s.nextMove.2 with audio := a }) := by
  unfold State.nextMove
  cases s.agenda with
  | nil => cases s.turn <;> rfl
  | cons _ _ => rfl

/-! ### Which port a packet belongs to (R111) -/

theorem findRow_mem {rows : List Row} {h : Word} {r : Row} (hr : findRow rows h = some r) : r ∈ rows :=
  List.mem_of_find?_eq_some hr

theorem Row.decode_packet {r : Row} {f : Fmt} {h : Word} {ops rest ws : List Word} {i : Instr}
    (hd : r.decode f h ops rest = .packet i ws) :
    h &&& r.mask = r.pat ∧ r.build f h ops = some i ∧ ws = rest := by
  unfold Row.decode at hd
  split at hd
  · next hm =>
    split at hd
    · next j hj => cases hd; exact ⟨hm, hj, rfl⟩
    · cases hd
  · cases hd

/-- A packet is read by a row of the port's table (R110). -/
theorem decodePort_packet {rows : List Row} {f : Fmt} {ws rest : List Word} {i : Instr}
    (hd : decodePort rows f ws = .packet i rest) :
    ∃ h tl r k, ws = h :: tl ∧ findRow rows h = some r ∧ operandCount f r.format tl = some k ∧
      k ≤ tl.length ∧ h &&& r.mask = r.pat ∧ r.build f h (tl.take k) = some i ∧ rest = tl.drop k := by
  cases ws with
  | nil => simp [decodePort] at hd
  | cons h tl =>
    simp only [decodePort] at hd
    split at hd
    · cases hd
    · next r hr =>
      split at hd
      · cases hd
      · next k hk =>
        split at hd
        · cases hd
        · obtain ⟨hm, hb, he⟩ := Row.decode_packet hd
          exact ⟨h, tl, r, k, rfl, hr, hk, by omega, hm, hb, he⟩

/-! ### Fetching -/

/-- Everything a step can be when it has a next state. -/
theorem step_cases {s t : State} (h : step s = .next t) :
    s.fetch = .stay t ∨ ∃ i s', s.fetch = .run i s' ∧ exec i s' = .next t := by
  unfold step at h
  split at h
  · next i s' hf => exact .inr ⟨i, s', hf, h⟩
  · next s' hf => cases h; exact .inl hf
  · cases h
  · cases h

theorem step_run {s s' : State} {i : Instr} (h : s.fetch = .run i s') : step s = exec i s' := by
  simp [step, h]

theorem step_stay {s t : State} (h : s.fetch = .stay t) : step s = .next t := by simp [step, h]

/-- What a turn of the video domain runs. -/
theorem State.videoTurn_run {s s' : State} {i : Instr} (h : s.videoTurn = .run i s') :
    s.inReset = false ∧ s.video.fault.valid = false ∧
    ((s.video.phase.ownStep = some i ∧ s' = s) ∨
     (s.video.phase.ownStep = none ∧ ∃ rest, decodeVideo s.cfg.fmt s.video.vcmd = .packet i rest ∧
        s' = { s with video := { s.video with vcmd := rest } }) ∨
     (s.video.phase.wait = some i ∧ decodeVideo s.cfg.fmt s.video.vcmd = .short ∧ s' = s)) := by
  unfold State.videoTurn at h
  split at h
  · cases h
  · next hn =>
    simp only [Bool.or_eq_true, not_or, Bool.not_eq_true] at hn
    refine ⟨hn.1, hn.2, ?_⟩
    split at h
    · next j hj => cases h; exact .inl ⟨hj, rfl⟩
    · next hj =>
      split at h
      · next j rest hd => cases h; exact .inr (.inl ⟨hj, rest, hd, rfl⟩)
      · cases h
      · next hd =>
        split at h
        · next j hw => cases h; exact .inr (.inr ⟨hw, hd, rfl⟩)
        · cases h

/-- When a turn of the video domain runs no instruction: nothing changes, or an illegal packet is taken. -/
theorem State.videoTurn_stay {s t : State} (h : s.videoTurn = .stay t) :
    t = s ∨ (s.inReset = false ∧ s.video.fault.valid = false ∧ s.video.phase.ownStep = none ∧
      ∃ why rest, decodeVideo s.cfg.fmt s.video.vcmd = .illegal why rest ∧
        t = { s with video := { s.video with vcmd := rest, fault := ⟨true, Cause.illegal.code⟩ } }) := by
  unfold State.videoTurn at h
  split at h
  · cases h; exact .inl rfl
  · next hn =>
    simp only [Bool.or_eq_true, not_or, Bool.not_eq_true] at hn
    split at h
    · cases h
    · next hj =>
      split at h
      · cases h
      · next why rest hd =>
        cases h
        exact .inr ⟨hn.1, hn.2, hj, why, rest, hd, by simp [VideoState.raise, FaultLatch.raise, hn.2]⟩
      · split at h
        · cases h
        · cases h; exact .inl rfl

/-- What a turn of the audio executor runs. -/
theorem State.audioTurn_run {s s' : State} {i : Instr} (h : s.audioTurn = .run i s') :
    s.inReset = false ∧ s.audio.fault.valid = false ∧ s.cfg.sr ≠ 0 ∧
    ∃ rest, decodeAudio s.cfg.fmt s.audio.acmd = .packet i rest ∧
      s' = { s with audio := { s.audio with acmd := rest } } := by
  unfold State.audioTurn at h
  split at h
  · cases h
  · next hn =>
    simp only [Bool.or_eq_true, not_or, Bool.not_eq_true, beq_eq_false_iff_ne] at hn
    split at h
    · next j rest hd => cases h; exact ⟨hn.1.1, hn.1.2, hn.2, rest, hd, rfl⟩
    · cases h
    · cases h

/-- When a turn of the audio executor runs no instruction. -/
theorem State.audioTurn_stay {s t : State} (h : s.audioTurn = .stay t) :
    t = s ∨ (s.inReset = false ∧ s.audio.fault.valid = false ∧ s.cfg.sr ≠ 0 ∧
      ∃ why rest, decodeAudio s.cfg.fmt s.audio.acmd = .illegal why rest ∧
        t = { s with audio := { s.audio with acmd := rest }.raise .illegal }) := by
  unfold State.audioTurn at h
  split at h
  · cases h; exact .inl rfl
  · next hn =>
    simp only [Bool.or_eq_true, not_or, Bool.not_eq_true, beq_eq_false_iff_ne] at hn
    split at h
    · cases h
    · next why rest hd => cases h; exact .inr ⟨hn.1.1, hn.1.2, hn.2, why, rest, hd, rfl⟩
    · cases h; exact .inl rfl

/-! ### The audio domain's inputs (R12) -/

@[simp] theorem State.audioInput_absent {s : State} (h : s.cfg.sr = 0) (f : Fetched) :
    s.audioInput f = .refuse .audioAbsent := if_pos h

@[simp] theorem State.audioInput_present {s : State} (h : s.cfg.sr ≠ 0) (f : Fetched) : s.audioInput f = f :=
  if_neg h

/-- An input that lands, or runs PULL, finds an audio domain. -/
theorem State.audioInput_cases {s : State} {f g : Fetched} (h : s.audioInput f = g) :
    (s.cfg.sr = 0 ∧ g = .refuse .audioAbsent) ∨ (s.cfg.sr ≠ 0 ∧ g = f) := by
  unfold State.audioInput at h
  split at h
  · exact .inl ⟨‹_›, h.symm⟩
  · exact .inr ⟨‹_›, h.symm⟩

/-! ### Which domain an instruction acts on (R20) -/

theorem videoCommand_frame {c : VClass} {s t : State} {body : VideoState → Except Cause VideoState}
    (h : videoCommand c s body = .next t) : ∃ v, t = { s with video := v } := by
  rcases videoCommand_cases h with rfl | ⟨k, -, rfl⟩ | ⟨-, -, ⟨v, -, rfl⟩ | ⟨k, -, rfl⟩⟩
  exacts [⟨t.video, rfl⟩, ⟨_, rfl⟩, ⟨_, rfl⟩, ⟨_, rfl⟩]

theorem seqStep_frame {p : Phase} {en : VideoState → Bool} {s t : State} {body : VideoState → VideoState}
    (h : seqStep p en s body = .next t) : ∃ v, t = { s with video := v } := by
  rcases seqStep_cases h with rfl | ⟨-, -, -, rfl⟩
  exacts [⟨t.video, rfl⟩, ⟨_, rfl⟩]

theorem audioCommand_frame {s t : State} {body : AudioState → Except Cause AudioState}
    (h : audioCommand s body = .next t) : ∃ a, t = { s with audio := a } := by
  rcases audioCommand_cases h with rfl | ⟨-, -, ⟨a, -, rfl⟩ | ⟨k, -, rfl⟩⟩
  exacts [⟨t.audio, rfl⟩, ⟨_, rfl⟩, ⟨_, rfl⟩]

/-- A VCMD packet and a sequencer step change the video domain only. -/
theorem exec_video_frame {i : Instr} {s t : State} (hp : i.port = .vcmd ∨ i.port = .seq)
    (h : exec i s = .next t) : ∃ v, t = { s with video := v } := by
  cases i <;> first
    | (exfalso; revert hp; simp [Instr.port]; done)
    | (simp only [exec, execPutpixel, execClear, execHline, execVline, execFillrect, execBlit, execFlip,
      execPalwr, execPalrd, execSetgrad, execRotpal, execCommit, execPullf2b, execRun, execHookret,
      execSeqFramedraw, execSeqScanline, execSeqFlip, execSeqCommit, execSeqPresent, execSeqPace] at h
       first | exact videoCommand_frame h | exact seqStep_frame h)

/-- An ACMD packet and PULL change the audio domain only. -/
theorem exec_audio_frame {i : Instr} {s t : State} (hp : i.port = .acmd ∨ i.port = .sig)
    (h : exec i s = .next t) : ∃ a, t = { s with audio := a } := by
  cases i <;> first
    | (exfalso; revert hp; simp [Instr.port]; done)
    | (rcases execPull_cases h with ⟨-, -, ⟨-, rfl⟩ | ⟨-, -, -, rfl⟩ | ⟨-, -, rfl⟩⟩ <;> exact ⟨_, rfl⟩)
    | (simp only [exec, execOscnext, execOscrst, execOscnote, execOscfreq, execOscdet, execOscwave,
      execEnvnext, execEnvon, execEnvoff, execEnvrst, execEnvatk, execEnvdec, execEnvsus, execEnvrel,
      execFltproc, execFltrst, execFlttype, execFltcut, execFltres, execVoice, execSpanwr, execFillret,
      execAbufwr, execAbufrdy, voiceCommand] at h
       exact audioCommand_frame h)

end Sys2Proof.Machine
end

