-- ==== Sys2Proof/Laws/Frames.lean ====
section
/-! SUPPORT. The frames of the meanings in the terms of the statements: what a fault leaves, what a command of
one voice leaves. -/

namespace Sys2Proof.Machine

/-- A fault of an unfaulted video domain (R291). -/
theorem State.videoFault_eq {s : State} (hf : s.video.fault.valid = false) (k : Cause) :
    ({ s with video := s.video.raise k } : State) = s.videoFault k := by
  simp [State.videoFault, VideoState.raise, FaultLatch.raise, hf]

/-- A fault of an unfaulted audio domain (R292, R270). -/
theorem State.audioFault_eq {s : State} (hf : s.audio.fault.valid = false) (k : Cause) :
    ({ s with audio := s.audio.raise k } : State) = s.audioFault k := by
  unfold State.audioFault
  cases h : s.audio.fillActive
  · simp [AudioState.raise, AudioState.closeFill, h, FaultLatch.raise, hf]
  · have hs := AudioState.spanList_loadSpan s.audio s.audio.fillN.toNat fun _ => 0
    simp [AudioState.loadSpan, h] at hs
    simp [AudioState.raise, AudioState.closeFill, h, FaultLatch.raise, hf, AudioState.deliver, AudioState.emit,
      AudioState.loadSpan, hs]

/-- A packet that the phase refuses (R176). -/
theorem videoCommand_refused {c : VClass} {s : State} {body : VideoState → Except Cause VideoState} {k : Cause}
    (hf : s.video.fault.valid = false) (hr : s.video.phase.right c = .refused k) :
    videoCommand c s body = .next (s.videoFault k) := by
  rw [← State.videoFault_eq hf]; simp [videoCommand, hf, hr]

/-- A packet whose pseudocode raises a fault (R291). -/
theorem videoCommand_error {c : VClass} {s : State} {body : VideoState → Except Cause VideoState} {k : Cause}
    (hf : s.video.fault.valid = false) (hr : s.video.phase.right c = .accepted)
    (hb : body s.video = .error k) : videoCommand c s body = .next (s.videoFault k) := by
  rw [← State.videoFault_eq hf, videoCommand_accepted hf hr, hb]; rfl

/-- A packet whose pseudocode runs to its end (R290 (a)). -/
theorem videoCommand_ok {c : VClass} {s : State} {body : VideoState → Except Cause VideoState} {v : VideoState}
    (hf : s.video.fault.valid = false) (hr : s.video.phase.right c = .accepted) (hb : body s.video = .ok v) :
    videoCommand c s body = .next { s with video := v } := by
  rw [videoCommand_accepted hf hr, hb]; rfl

/-- An ACMD packet whose pseudocode raises a fault (R292). -/
theorem audioCommand_error {s : State} {body : AudioState → Except Cause AudioState} {k : Cause}
    (h : s.audioRuns) (hb : body s.audio = .error k) : audioCommand s body = .next (s.audioFault k) := by
  rw [← State.audioFault_eq h.2, audioCommand_accepted h.1 h.2, hb]; rfl

/-- An ACMD packet whose pseudocode runs to its end (R290 (a)). -/
theorem audioCommand_ok {s : State} {body : AudioState → Except Cause AudioState} {a : AudioState}
    (h : s.audioRuns) (hb : body s.audio = .ok a) : audioCommand s body = .next { s with audio := a } := by
  rw [audioCommand_accepted h.1 h.2, hb]; rfl

/-- A voice command whose pseudocode raises a fault. -/
theorem voiceCommand_error {v : Byte} {s : State} {body : Voice → FReal → Except Cause VoiceResult} {vc : Voice}
    {k : Cause} (h : s.hasVoice v vc) (hb : body vc (drawNoise s.cfg.fmt s.audio.draws) = .error k) :
    voiceCommand v s body = .next (s.audioFault k) :=
  audioCommand_error h.1 (by simp [voiceOperand, h.2, hb])

/-- A voice command of a voice that does not exist (R108). -/
theorem voiceCommand_noVoice {v : Byte} {s : State} {body : Voice → FReal → Except Cause VoiceResult}
    (h : s.audioRuns) (hv : s.audio.voices.length ≤ v.toNat) :
    voiceCommand v s body = .next (s.audioFault .illegal) :=
  audioCommand_error h (by simp [voiceOperand, hv])

/-- A voice command that responds nothing and takes no draw. -/
theorem voiceCommand_quiet {v : Byte} {s : State} {body : Voice → FReal → Except Cause VoiceResult}
    {vc vc' : Voice} (h : s.hasVoice v vc)
    (hb : body vc (drawNoise s.cfg.fmt s.audio.draws) = .ok ⟨vc', 0, none⟩) :
    voiceCommand v s body = .next (s.withVoice v vc') :=
  voiceCommand_ok h.1.1 h.1.2 h.2 hb

/-- A voice command that responds a real. -/
theorem voiceCommand_responds {v : Byte} {s : State} {body : Voice → FReal → Except Cause VoiceResult}
    {vc vc' : Voice} {n : Nat} {r : FReal} (h : s.hasVoice v vc)
    (hb : body vc (drawNoise s.cfg.fmt s.audio.draws) = .ok ⟨vc', n, some r⟩) :
    voiceCommand v s body = .next
      ((({ s with audio := { s.audio with draws := s.audio.draws + n } } : State).withVoice v vc').withArsp r) :=
  voiceCommand_ok h.1.1 h.1.2 h.2 hb

end Sys2Proof.Machine
end

