-- ==== Sys2Proof/Laws/Num.lean ====
section
/-! SUPPORT. The named properties of `NUM.exp2` (`spec/00_scope.md` R14): it is a power of two at an integer in
range, finite, and monotone, whatever the free function is. -/

namespace Sys2Proof.Machine

/-! ### The function made monotone -/

theorem between_bounds (g : Int → Int) (n : Nat) {lo hi a b : Int} (x : Int) (h : a ≤ b) :
    a ≤ between g n lo hi a b x ∧ between g n lo hi a b x ≤ b := by
  induction n generalizing lo hi a b with
  | zero => simp only [between]; omega
  | succ n ih =>
    have h1 : a ≤ max a (min b (g ((lo + hi) / 2))) := le_max_left _ _
    have h2 : max a (min b (g ((lo + hi) / 2))) ≤ b := max_le h (min_le_left _ _)
    simp only [between]
    split
    · exact ⟨h1, h2⟩
    · split
      · have := ih (lo := lo) (hi := (lo + hi) / 2) h1; omega
      · have := ih (lo := (lo + hi) / 2) (hi := hi) h2; omega

theorem between_mono (g : Int → Int) (n : Nat) {lo hi a b x y : Int} (h : a ≤ b) (hxy : x ≤ y) :
    between g n lo hi a b x ≤ between g n lo hi a b y := by
  induction n generalizing lo hi a b with
  | zero => simp [between]
  | succ n ih =>
    have h1 : a ≤ max a (min b (g ((lo + hi) / 2))) := le_max_left _ _
    have h2 : max a (min b (g ((lo + hi) / 2))) ≤ b := max_le h (min_le_left _ _)
    have l := fun z => between_bounds g n (lo := lo) (hi := (lo + hi) / 2) z h1
    have r := fun z => between_bounds g n (lo := (lo + hi) / 2) (hi := hi) z h2
    have il := ih (lo := lo) (hi := (lo + hi) / 2) h1
    have ir := ih (lo := (lo + hi) / 2) (hi := hi) h2
    have lx := l x
    have ry := r y
    simp only [between]
    split <;> split <;> omega

/-- A function that is monotone within its bounds is left as it is: no such function is ruled out. -/
theorem between_of_mono {g : Int → Int} (hg : Monotone g) (n : Nat) {lo hi a b x : Int} (hlo : lo < x)
    (hhi : x < hi) (hn : hi - lo ≤ 2 ^ n) (ha : ∀ z, lo < z → a ≤ g z) (hb : ∀ z, z < hi → g z ≤ b) :
    between g n lo hi a b x = g x := by
  induction n generalizing lo hi a b with
  | zero => omega
  | succ n ih =>
    have hp : (2 : Int) ^ (n + 1) = 2 * 2 ^ n := by ring
    have hm : max a (min b (g ((lo + hi) / 2))) = g ((lo + hi) / 2) := by
      have h1 := ha ((lo + hi) / 2) (by omega)
      have h2 := hb ((lo + hi) / 2) (by omega)
      omega
    simp only [between, hm]
    split
    · next h => rw [h]
    · split
      · next h1 h2 => exact ih hlo h2 (by omega) ha fun z hz => hg (by omega)
      · next h1 h2 => exact ih (by omega) hhi (by omega) (fun z hz => hg (by omega)) hb

/-! ### The order of the format -/

theorem magValue_zero (f : Fmt) : magValue f 0 = 0 := by simp [magValue, magSig, magExp]

theorem signed_magValue_le (f : Fmt) (a b : Bool) (m n : Nat) :
    signed a (magValue f m) ≤ signed b (magValue f n) ↔ signed a m ≤ signed b n := by
  have h0 := magValue_zero f
  have hmn := magValue_lt_iff f (a := m) (b := n)
  have hnm := magValue_lt_iff f (a := n) (b := m)
  have hm := magValue_lt_iff f (a := 0) (b := m)
  have hn := magValue_lt_iff f (a := 0) (b := n)
  cases a <;> cases b <;> simp only [signed, if_true, if_false, Bool.false_eq_true] <;> omega

/-- What a finite pattern reads as, and its place in the order. -/
theorem orderKey_fin {f : Fmt} {r : FReal} {neg : Bool} {n : Nat} (h : unpack f r = .fin neg n) :
    ∃ mag, mag < infBits f ∧ n = magValue f mag ∧ orderKey f r = signed neg mag := by
  have hw : 2 * 2 ^ (width f - 1) = 2 ^ width f := by cases f <;> rfl
  have hw64 : 2 ^ width f ≤ 2 ^ 64 := by cases f <;> decide
  have hpos : 0 < 2 ^ (width f - 1) := by positivity
  have hdvd : r.toNat % 2 ^ width f % 2 ^ (width f - 1) = r.toNat % 2 ^ (width f - 1) :=
    Nat.mod_mod_of_dvd _ ⟨2, by omega⟩
  set neg' := decide (2 ^ (width f - 1) ≤ r.toNat % 2 ^ width f) with hneg
  set mag := r.toNat % 2 ^ (width f - 1) with hmag
  have hkey : orderKey f r = signed neg' mag := rfl
  have hlt : r.toNat % 2 ^ width f < 2 ^ width f := Nat.mod_lt _ (by positivity)
  have hb : (withSign f neg' mag).toNat % 2 ^ width f = r.toNat % 2 ^ width f := by
    have hval : (if neg' then 2 ^ (width f - 1) + mag else mag) = r.toNat % 2 ^ width f := by
      rw [hneg]
      by_cases hc : 2 ^ (width f - 1) ≤ r.toNat % 2 ^ width f
      · simp only [hc, decide_true, if_true]
        rw [← hdvd, Nat.mod_eq_sub_mod hc, Nat.mod_eq_of_lt (by omega)]; omega
      · simp only [hc, decide_false, Bool.false_eq_true, if_false]
        rw [← hdvd, Nat.mod_eq_of_lt (by omega)]
    unfold withSign
    rw [BitVec.toNat_ofNat, hval, Nat.mod_eq_of_lt (b := 2 ^ 64) (by omega), Nat.mod_mod]
  have hu : unpack f (withSign f neg' mag) = unpack f r := by unfold unpack; rw [hb]
  by_cases hi : mag < infBits f
  · rw [← hu, unpack_withSign f neg' hi] at h
    rw [FVal.fin.injEq] at h
    exact ⟨mag, hi, h.2.symm, by rw [hkey, h.1]⟩
  · exfalso
    unfold unpack at h
    simp only [hdvd] at h
    split at h
    · cases h
    · rw [if_pos (by omega)] at h; cases h

theorem isFinite_iff {f : Fmt} {r : FReal} : isFinite f r = true ↔ ∃ a n, unpack f r = .fin a n := by
  unfold isFinite
  split
  · next a n h => exact ⟨fun _ => ⟨a, n, h⟩, fun _ => rfl⟩
  · next h => exact ⟨fun hc => (by cases hc), fun ⟨a, n, hn⟩ => absurd hn (h a n)⟩

/-- Finite values are ordered as their places. -/
theorem fle_iff_key {f : Fmt} {x y : FReal} (hx : isFinite f x = true) (hy : isFinite f y = true) :
    fle f x y = true ↔ orderKey f x ≤ orderKey f y := by
  obtain ⟨a, m, hm⟩ := isFinite_iff.mp hx
  obtain ⟨b, n, hn⟩ := isFinite_iff.mp hy
  obtain ⟨p, -, rfl, hp⟩ := orderKey_fin hm
  obtain ⟨q, -, rfl, hq⟩ := orderKey_fin hn
  simp only [fle, hm, hn, hp, hq, decide_eq_true_eq, signed_magValue_le]

theorem orderKey_bounds {f : Fmt} {x : FReal} (hx : isFinite f x = true) :
    -(maxKey f) ≤ orderKey f x ∧ orderKey f x ≤ maxKey f := by
  obtain ⟨a, m, hm⟩ := isFinite_iff.mp hx
  obtain ⟨p, hlt, -, hp⟩ := orderKey_fin hm
  rw [hp]
  unfold maxKey
  cases a <;> simp only [signed, if_true, if_false, Bool.false_eq_true] <;> omega

/-- A place of the order is the place of its value, which is finite. -/
theorem ofKey_spec {f : Fmt} {k : Int} (h : -(maxKey f) ≤ k ∧ k ≤ maxKey f) :
    isFinite f (ofKey f k) = true ∧ orderKey f (ofKey f k) = k := by
  have hlt : k.natAbs < infBits f := by unfold maxKey at h; omega
  have hu := unpack_withSign f (decide (k < 0)) hlt
  refine ⟨isFinite_iff.mpr ⟨_, _, hu⟩, ?_⟩
  obtain ⟨m, -, hv, hk⟩ := orderKey_fin hu
  have he : m = k.natAbs := by
    have h1 := magValue_lt_iff f (a := m) (b := k.natAbs)
    have h2 := magValue_lt_iff f (a := k.natAbs) (b := m)
    omega
  unfold ofKey
  rw [hk, he]
  by_cases hc : k < 0 <;> simp only [signed, hc, decide_true, decide_false, if_true, if_false,
    Bool.false_eq_true] <;> omega

/-! ### Powers of two -/

/-- Some magnitude below infinity has the value `2^j`. -/
theorem magValue_two_pow (f : Fmt) {j : Nat} (h : j ≤ scale f + maxExp f) :
    ∃ mag, mag < infBits f ∧ magValue f mag = 2 ^ j := by
  have hp := prec_pos f
  have hh : hidden f = 2 ^ (prec f - 1) := rfl
  have hle : 2 ^ (j - (j - (prec f - 1))) ≤ hidden f := by
    rw [hh]; exact Nat.pow_le_pow_right (by norm_num) (by omega)
  refine ⟨(j - (prec f - 1)) * hidden f + 2 ^ (j - (j - (prec f - 1))), ?_, ?_⟩
  · have hq : j - (prec f - 1) ≤ scale f + maxExp f - (prec f - 1) := by omega
    have hmul := Nat.mul_le_mul_right (hidden f) hq
    have hinf : (scale f + maxExp f - (prec f - 1)) * hidden f + hidden f < infBits f := by
      cases f <;> decide +kernel
    omega
  · rw [magValue_of f (by omega) (fun hq => by rw [hh]; exact Nat.pow_le_pow_right (by norm_num) (by omega)),
      ← pow_add]
    congr 1; omega

/-- A power of two of the format reads as itself. -/
theorem unpack_powTwo {f : Fmt} {k : Int} (h1 : -(scale f : Int) ≤ k) (h2 : k ≤ maxExp f) :
    unpack f (powTwo f k) = .fin false (2 ^ (k + scale f).toNat) := by
  obtain ⟨mag, hlt, hv⟩ := magValue_two_pow f (j := (k + scale f).toNat) (by omega)
  have key : ∀ num den : Nat, 0 < num → 0 < den → num = 2 ^ (k + scale f).toNat * den →
      unpack f (fround f false num den) = .fin false (2 ^ (k + scale f).toNat) := by
    intro num den _ hden h
    have he := roundMag_exact f (num := num) hden (mag := mag) (by rw [hv]; exact h)
    rw [unpack_fround (by rw [he]; exact hlt), he, hv]
  have hpos : ∀ n : Nat, (0 : Int) < 2 ^ n := fun n => by positivity
  unfold powTwo ofRatio roundInt
  split
  · next hk =>
    have hn : (2 : Int) ^ k.toNat * 2 ^ scale f = ((2 ^ (k.toNat + scale f) : Nat) : Int) := by
      push_cast; rw [pow_add]
    rw [hn, if_neg (by exact_mod_cast (hpos _).ne'), decide_eq_false (not_lt.mpr (Int.natCast_nonneg _)),
      Int.natAbs_natCast]
    exact key _ _ (by positivity) Nat.one_pos (by rw [Nat.mul_one]; congr 1; omega)
  · next hk =>
    have hn : (1 : Int) * 2 ^ scale f = ((2 ^ scale f : Nat) : Int) := by push_cast; ring
    rw [hn, if_neg (by exact_mod_cast (hpos _).ne'), decide_eq_false (not_lt.mpr (Int.natCast_nonneg _)),
      Int.natAbs_natCast]
    exact key _ _ (by positivity) (by positivity) (by rw [← pow_add]; congr 1; omega)

theorem isFinite_powTwo {f : Fmt} {k : Int} (h1 : -(scale f : Int) ≤ k) (h2 : k ≤ maxExp f) :
    isFinite f (powTwo f k) = true := isFinite_iff.mpr ⟨_, _, unpack_powTwo h1 h2⟩

theorem powKey_mono {f : Fmt} {j k : Int} (h1 : -(scale f : Int) ≤ j) (hjk : j ≤ k) (h2 : k ≤ maxExp f) :
    powKey f j ≤ powKey f k := by
  have hj := isFinite_powTwo (f := f) h1 (by omega)
  have hk := isFinite_powTwo (f := f) (k := k) (by omega) h2
  refine (fle_iff_key hj hk).mp ?_
  have hle : (2 : Nat) ^ (j + scale f).toNat ≤ 2 ^ (k + scale f).toNat :=
    Nat.pow_le_pow_right (by norm_num) (by omega)
  simp only [fle, unpack_powTwo h1 (show j ≤ maxExp f by omega),
    unpack_powTwo (show -(scale f : Int) ≤ k by omega) h2, signed, Bool.false_eq_true, if_false,
    decide_eq_true_eq]
  exact_mod_cast hle

theorem powKey_bounds {f : Fmt} {k : Int} (h1 : -(scale f : Int) ≤ k) (h2 : k ≤ maxExp f) :
    -(maxKey f) ≤ powKey f k ∧ powKey f k ≤ maxKey f := orderKey_bounds (isFinite_powTwo h1 h2)

/-! ### `NUM.exp2` -/

/-- Every interval of exponents, by the place of its floor among the format's exponents. -/
theorem expInterval_cases (f : Fmt) (k : Int) :
    ((maxExp f : Int) ≤ k ∧ (expInterval f k).low = powKey f (maxExp f) ∧ (expInterval f k).high = maxKey f) ∨
    (k < -(scale f : Int) ∧ (expInterval f k).low = -(maxKey f) ∧
      (expInterval f k).high = powKey f (-(scale f : Int))) ∨
    (-(scale f : Int) ≤ k ∧ k < maxExp f ∧ (expInterval f k).low = powKey f k ∧
      (expInterval f k).high = powKey f (k + 1)) := by
  unfold expInterval
  simp only
  split
  · exact .inl ⟨‹_›, rfl, rfl⟩
  · split
    · exact .inr (.inl ⟨‹_›, rfl, rfl⟩)
    · exact .inr (.inr ⟨by omega, by omega, rfl, rfl⟩)

/-- Above the format's exponents there is one interval, and so below. -/
theorem expInterval_outer {f : Fmt} {j k : Int}
    (h : ((maxExp f : Int) ≤ j ∧ (maxExp f : Int) ≤ k) ∨ (j < -(scale f : Int) ∧ k < -(scale f : Int))) :
    expInterval f j = expInterval f k := by
  unfold expInterval
  simp only
  rcases h with h | h
  · rw [if_pos h.1, if_pos h.2]
  · rw [if_neg (c := (maxExp f : Int) ≤ j) (by omega), if_neg (c := (maxExp f : Int) ≤ k) (by omega),
      if_pos h.1, if_pos h.2]

theorem expInterval_bounds (f : Fmt) (k : Int) :
    -(maxKey f) ≤ (expInterval f k).low ∧ (expInterval f k).low ≤ (expInterval f k).high ∧
      (expInterval f k).high ≤ maxKey f := by
  have ht := powKey_bounds (f := f) (k := (maxExp f : Int)) (by omega) (by omega)
  have hb := powKey_bounds (f := f) (k := -(scale f : Int)) (by omega) (by omega)
  rcases expInterval_cases f k with ⟨-, hl, hh⟩ | ⟨-, hl, hh⟩ | ⟨h1, h2, hl, hh⟩
  · omega
  · omega
  · have h3 := powKey_bounds (f := f) h1 (by omega)
    have h4 := powKey_bounds (f := f) (k := k + 1) (by omega) (by omega)
    have h5 := powKey_mono (f := f) (j := k) (k := k + 1) h1 (by omega) (by omega)
    omega

/-- Of two intervals that are not the same outer one, the lower one ends where the higher one begins or below. -/
theorem expInterval_separate {f : Fmt} {j k : Int} (h : j < k) (ht : j < maxExp f)
    (hb : -(scale f : Int) ≤ k) : (expInterval f j).high ≤ (expInterval f k).low := by
  rcases expInterval_cases f j with ⟨h1, -, -⟩ | ⟨h1, -, hh⟩ | ⟨h1, -, -, hh⟩
  · omega
  all_goals
    rcases expInterval_cases f k with ⟨h2, hl, -⟩ | ⟨h2, -, -⟩ | ⟨h2, h3, hl, -⟩
    · rw [hh, hl]; apply powKey_mono <;> omega
    · omega
    · rw [hh, hl]; apply powKey_mono <;> omega

theorem exp2Key_bounds (f : Fmt) (k x : Int) :
    (expInterval f k).low ≤ exp2Key f k x ∧ exp2Key f k x ≤ (expInterval f k).high :=
  between_bounds _ _ x (expInterval_bounds f k).2.1

theorem exp2Key_mono {f : Fmt} {j k x y : Int} (hxy : x ≤ y) (hjk : expInterval f j = expInterval f k) :
    exp2Key f j x ≤ exp2Key f k y := by
  unfold exp2Key
  rw [hjk]
  exact between_mono _ _ (expInterval_bounds f k).2.1 hxy

/-- The floor of a finite operand. -/
def expFloor (f : Fmt) (a : Bool) (n : Nat) : Int := signed a n / 2 ^ scale f

/-- All that `NUM.exp2` gives at a finite operand: a finite value; exactly `2^k` at an integer `k` in range, else
the value of the free function on the operand's interval. -/
theorem numExp2_cases {f : Fmt} {e : FReal} {a : Bool} {n : Nat} (h : unpack f e = .fin a n) :
    isFinite f (numExp2 f e) = true ∧
    ((signed a n % 2 ^ scale f = 0 ∧ expInRange f (expFloor f a n) = true ∧
        numExp2 f e = powTwo f (expFloor f a n)) ∨
      (¬(signed a n % 2 ^ scale f = 0 ∧ expInRange f (expFloor f a n) = true) ∧
        orderKey f (numExp2 f e) = exp2Key f (expFloor f a n) (orderKey f e))) := by
  unfold numExp2
  rw [h]
  simp only
  by_cases hi : signed a n % 2 ^ scale f = 0 ∧ expInRange f (expFloor f a n) = true
  · have hr := hi.2
    unfold expInRange at hr
    rw [decide_eq_true_eq] at hr
    unfold expFloor at *
    rw [if_pos hi]
    exact ⟨isFinite_powTwo hr.1 hr.2, .inl ⟨hi.1, hi.2, rfl⟩⟩
  · have hb := exp2Key_bounds f (expFloor f a n) (orderKey f e)
    have hi' := expInterval_bounds f (expFloor f a n)
    unfold expFloor at *
    rw [if_neg hi]
    have hk := ofKey_spec (f := f) (k := exp2Key f (signed a n / 2 ^ scale f) (orderKey f e)) (by omega)
    exact ⟨hk.1, .inr ⟨hi, hk.2⟩⟩

/-- An integer exponent in range gives the least power of its interval. -/
theorem powKey_eq_low {f : Fmt} {k : Int} (h : expInRange f k = true) : powKey f k = (expInterval f k).low := by
  unfold expInRange at h
  rw [decide_eq_true_eq] at h
  rcases expInterval_cases f k with ⟨h1, hl, -⟩ | ⟨h1, -, -⟩ | ⟨-, -, hl, -⟩
  · rw [hl, le_antisymm h.2 h1]
  · omega
  · exact hl.symm

/-- The place of `2^e` lies between the powers of two around `e`. -/
theorem numExp2_bounds {f : Fmt} {e : FReal} {a : Bool} {n : Nat} (h : unpack f e = .fin a n) :
    (expInterval f (expFloor f a n)).low ≤ orderKey f (numExp2 f e) ∧
      orderKey f (numExp2 f e) ≤ (expInterval f (expFloor f a n)).high := by
  rcases (numExp2_cases h).2 with ⟨-, hr, he⟩ | ⟨-, hk⟩
  · have hl := powKey_eq_low hr
    have hb := expInterval_bounds f (expFloor f a n)
    rw [he]
    unfold powKey at hl
    omega
  · rw [hk]; exact exp2Key_bounds _ _ _

/-- `NUM.exp2` is monotone (R14). -/
theorem numExp2_mono {f : Fmt} {x y : FReal} (hx : isFinite f x = true) (hy : isFinite f y = true)
    (h : fle f x y = true) : fle f (numExp2 f x) (numExp2 f y) = true := by
  have hkey := (fle_iff_key hx hy).mp h
  obtain ⟨a, m, hm⟩ := isFinite_iff.mp hx
  obtain ⟨b, n, hn⟩ := isFinite_iff.mp hy
  have cx := numExp2_cases hm
  have cy := numExp2_cases hn
  have bx := numExp2_bounds hm
  have hby := numExp2_bounds hn
  rw [fle_iff_key cx.1 cy.1]
  have hval : signed a m ≤ signed b n := by simpa [fle, hm, hn] using h
  have hp : (0 : Int) < 2 ^ scale f := by positivity
  have hfl : expFloor f a m ≤ expFloor f b n := Int.ediv_le_ediv hp hval
  by_cases hsep : expFloor f a m < expFloor f b n ∧ expFloor f a m < maxExp f ∧
      -(scale f : Int) ≤ expFloor f b n
  · have := expInterval_separate hsep.1 hsep.2.1 hsep.2.2; omega
  · have hsame : expInterval f (expFloor f a m) = expInterval f (expFloor f b n) := by
      rcases lt_or_eq_of_le hfl with hlt | heq
      · exact expInterval_outer (by omega)
      · rw [heq]
    rcases cx.2 with ⟨-, rx, ex⟩ | ⟨nx, kx⟩
    · have hl := powKey_eq_low rx
      rw [ex]
      unfold powKey at hl
      rw [hl, hsame]; exact hby.1
    · rcases cy.2 with ⟨zy, ry, -⟩ | ⟨-, ky⟩
      · exfalso
        have hr := ry
        unfold expInRange at hr
        rw [decide_eq_true_eq] at hr
        have heq : expFloor f a m = expFloor f b n := by omega
        have e1 := Int.emod_add_mul_ediv (signed a m) (2 ^ scale f)
        have e2 := Int.emod_add_mul_ediv (signed b n) (2 ^ scale f)
        have h0 := Int.emod_nonneg (signed a m) (ne_of_gt hp)
        refine nx ⟨?_, by rw [heq]; exact ry⟩
        unfold expFloor at heq
        rw [heq] at e1
        omega
      · rw [kx, ky]; exact exp2Key_mono hkey hsame

end Sys2Proof.Machine
end

