-- ==== Sys2Proof/Laws/PerInstr.lean ====
section
/-! SUPPORT. Statements about every instruction, proved one constructor at a time: how many words the packet
of an instruction takes (R103). -/

namespace Sys2Proof.Laws

/-- The words of an instruction's packet, header included (R103); a sequencer step and a signal have none
(R116). -/
def wordCount (f : Fmt) : Instr → Nat
  | .putpixel .. => 2
  | .clear .. => 1
  | .hline .. => 3
  | .vline .. => 3
  | .fillrect .. => 3
  | .blit _ _ _ bytes => 3 + (bytes.length + 3) / 4
  | .flip => 1
  | .palwr .. => 2
  | .palrd .. => 1
  | .setgrad .. => 4
  | .rotpal .. => 2
  | .commit => 1
  | .pullf2b => 1
  | .run .. => 1
  | .hookret => 1
  | .oscnext .. => 1
  | .oscrst .. => 1
  | .oscnote .. => 1
  | .oscfreq .. => 1 + f.words
  | .oscdet .. => 1 + f.words
  | .oscwave .. => 1
  | .envnext .. => 1
  | .envon .. => 1
  | .envoff .. => 1
  | .envrst .. => 1
  | .envatk .. => 1 + f.words
  | .envdec .. => 1 + f.words
  | .envsus .. => 1 + f.words
  | .envrel .. => 1 + f.words
  | .fltproc .. => 1 + f.words
  | .fltrst .. => 1
  | .flttype .. => 1
  | .fltcut .. => 1 + f.words
  | .fltres .. => 1 + f.words
  | .voice .. => 1
  | .spanwr .. => 2
  | .fillret .. => 1
  | .abufwr .. => 2
  | .abufrdy => 1
  | .seqFramedraw => 0
  | .seqScanline => 0
  | .seqFlip => 0
  | .seqCommit => 0
  | .seqPresent => 0
  | .seqPace => 0
  | .pull .. => 0

/-- The encoder gives exactly the words R103 prescribes. -/
def WordCount.Statement (i : Instr) : Prop := ∀ f : Fmt, (encode f i).length = wordCount f i

/-- A payload takes one word for every four bytes or part of four (R103, R109). -/
theorem length_packBytes : ∀ bs : List Byte, (packBytes bs).length = (bs.length + 3) / 4
  | [] => rfl
  | [_] => by simp [packBytes]
  | [_, _] => by simp [packBytes]
  | [_, _, _] => by simp [packBytes]
  | _ :: _ :: _ :: _ :: bs => by
    simp only [packBytes, List.length_cons, length_packBytes bs]; omega

theorem length_realWords (f : Fmt) (r : FReal) : (realWords f r).length = f.words := by cases f <;> rfl

theorem WordCount.putpixel (idx : Byte) (x y : BitVec 16) :
    WordCount.Statement (.putpixel idx x y) := fun _ => rfl

theorem WordCount.clear (idx : Byte) :
    WordCount.Statement (.clear idx) := fun _ => rfl

theorem WordCount.hline (idx : Byte) (x y len : BitVec 16) :
    WordCount.Statement (.hline idx x y len) := fun _ => rfl

theorem WordCount.vline (idx : Byte) (x y len : BitVec 16) :
    WordCount.Statement (.vline idx x y len) := fun _ => rfl

theorem WordCount.fillrect (idx : Byte) (x y w h : BitVec 16) :
    WordCount.Statement (.fillrect idx x y w h) := fun _ => rfl

theorem WordCount.blit (srcw : BitVec 16) (dx dy : BitVec 16) (bytes : List Byte) :
    WordCount.Statement (.blit srcw dx dy bytes) := fun f => by
  simp [encode, wordCount, length_packBytes]; omega

theorem WordCount.flip :
    WordCount.Statement .flip := fun _ => rfl

theorem WordCount.palwr (i : Byte) (c : RGB) :
    WordCount.Statement (.palwr i c) := fun _ => rfl

theorem WordCount.palrd (i : Byte) :
    WordCount.Statement (.palrd i) := fun _ => rfl

theorem WordCount.setgrad (first : Byte) (count : BitVec 16) (c0 c1 : RGB) :
    WordCount.Statement (.setgrad first count c0 c1) := fun _ => rfl

theorem WordCount.rotpal (first : Byte) (reverse : Bool) (count : BitVec 16) :
    WordCount.Statement (.rotpal first reverse count) := fun _ => rfl

theorem WordCount.commit :
    WordCount.Statement .commit := fun _ => rfl

theorem WordCount.pullf2b :
    WordCount.Statement .pullf2b := fun _ => rfl

theorem WordCount.run (fps : BitVec 16) :
    WordCount.Statement (.run fps) := fun _ => rfl

theorem WordCount.hookret :
    WordCount.Statement .hookret := fun _ => rfl

theorem WordCount.oscnext (v : Byte) :
    WordCount.Statement (.oscnext v) := fun _ => rfl

theorem WordCount.oscrst (v : Byte) :
    WordCount.Statement (.oscrst v) := fun _ => rfl

theorem WordCount.oscnote (v : Byte) (n : BitVec 16) :
    WordCount.Statement (.oscnote v n) := fun _ => rfl

theorem WordCount.oscfreq (v : Byte) (hz : FReal) :
    WordCount.Statement (.oscfreq v hz) := fun f => by
  simp [encode, wordCount, length_realWords]; omega

theorem WordCount.oscdet (v : Byte) (cents : FReal) :
    WordCount.Statement (.oscdet v cents) := fun f => by
  simp [encode, wordCount, length_realWords]; omega

theorem WordCount.oscwave (v : Byte) (tag : BitVec 3) :
    WordCount.Statement (.oscwave v tag) := fun _ => rfl

theorem WordCount.envnext (v : Byte) :
    WordCount.Statement (.envnext v) := fun _ => rfl

theorem WordCount.envon (v : Byte) :
    WordCount.Statement (.envon v) := fun _ => rfl

theorem WordCount.envoff (v : Byte) :
    WordCount.Statement (.envoff v) := fun _ => rfl

theorem WordCount.envrst (v : Byte) :
    WordCount.Statement (.envrst v) := fun _ => rfl

theorem WordCount.envatk (v : Byte) (seconds : FReal) :
    WordCount.Statement (.envatk v seconds) := fun f => by
  simp [encode, wordCount, length_realWords]; omega

theorem WordCount.envdec (v : Byte) (seconds : FReal) :
    WordCount.Statement (.envdec v seconds) := fun f => by
  simp [encode, wordCount, length_realWords]; omega

theorem WordCount.envsus (v : Byte) (level : FReal) :
    WordCount.Statement (.envsus v level) := fun f => by
  simp [encode, wordCount, length_realWords]; omega

theorem WordCount.envrel (v : Byte) (seconds : FReal) :
    WordCount.Statement (.envrel v seconds) := fun f => by
  simp [encode, wordCount, length_realWords]; omega

theorem WordCount.fltproc (v : Byte) (x : FReal) :
    WordCount.Statement (.fltproc v x) := fun f => by
  simp [encode, wordCount, length_realWords]; omega

theorem WordCount.fltrst (v : Byte) :
    WordCount.Statement (.fltrst v) := fun _ => rfl

theorem WordCount.flttype (v : Byte) (ty : BitVec 2) :
    WordCount.Statement (.flttype v ty) := fun _ => rfl

theorem WordCount.fltcut (v : Byte) (hz : FReal) :
    WordCount.Statement (.fltcut v hz) := fun f => by
  simp [encode, wordCount, length_realWords]; omega

theorem WordCount.fltres (v : Byte) (q : FReal) :
    WordCount.Statement (.fltres v q) := fun f => by
  simp [encode, wordCount, length_realWords]; omega

theorem WordCount.voice (v : Byte) :
    WordCount.Statement (.voice v) := fun _ => rfl

theorem WordCount.spanwr (slot : BitVec 16) (s : Sample) :
    WordCount.Statement (.spanwr slot s) := fun _ => rfl

theorem WordCount.fillret (err : Bool) :
    WordCount.Statement (.fillret err) := fun _ => rfl

theorem WordCount.abufwr (slot : BitVec 16) (s : Sample) :
    WordCount.Statement (.abufwr slot s) := fun _ => rfl

theorem WordCount.abufrdy :
    WordCount.Statement .abufrdy := fun _ => rfl

theorem WordCount.seqFramedraw :
    WordCount.Statement .seqFramedraw := fun _ => rfl

theorem WordCount.seqScanline :
    WordCount.Statement .seqScanline := fun _ => rfl

theorem WordCount.seqFlip :
    WordCount.Statement .seqFlip := fun _ => rfl

theorem WordCount.seqCommit :
    WordCount.Statement .seqCommit := fun _ => rfl

theorem WordCount.seqPresent :
    WordCount.Statement .seqPresent := fun _ => rfl

theorem WordCount.seqPace :
    WordCount.Statement .seqPace := fun _ => rfl

theorem WordCount.pull (n : BitVec 16) :
    WordCount.Statement (.pull n) := fun _ => rfl

end Sys2Proof.Laws
end

