-- ==== Sys2Proof/Tests/Slice0.lean ====
section
/-! SUPPORT. Tests: the WellFormed smoke test, the decoding of every constructor from words written out from the
spec's encoding, single steps whose expected results are the vectors of `spec/95_test_vectors.md`, and for each
statement with hypotheses a concrete state that meets them. -/

namespace Sys2Proof.Tests

open Sys2Proof Sys2Proof.Machine

-- one theorem at a time: each is a kernel evaluation
set_option Elab.async false

/-! ### WellFormed refuses an ill-formed term of each check -/

/-- A BLIT of 2^24 bytes has no BLEN word (R106). -/
theorem test_wf_refuses_long_blit : blitFits (List.replicate (2 ^ 24) 0) = false := by
  unfold blitFits; rw [List.length_replicate]; decide

theorem test_wf_refuses_long_blit_instr : (Instr.blit 1 0 0 (List.replicate (2 ^ 24) 0)).wf .binary32 = false :=
  test_wf_refuses_long_blit

/-- A binary32 operand is one word (R107). -/
theorem test_wf_refuses_wide_real : (Instr.fltproc 0 0x100000000).wf .binary32 = false := by decide

theorem test_wf_takes_wide_real_in_binary64 : (Instr.fltproc 0 0x100000000).wf .binary64 = true := by decide

/-! ### Decoding: every constructor, from `95_test_vectors.md` section 2.1 -/

theorem test_decode_putpixel :
    decodeVideo .binary32 [0x01000005, 0x00010001] = .packet (.putpixel 5 1 1) [] := by decide +kernel

theorem test_decode_clear :
    decodeVideo .binary32 [0x02000007] = .packet (.clear 7) [] := by decide +kernel

theorem test_decode_hline :
    decodeVideo .binary32 [0x03000009, 0x0002FFFF, 0x00000003] = .packet (.hline 9 (-1) 2 3) [] := by decide +kernel

theorem test_decode_vline :
    decodeVideo .binary32 [0x04000004, 0x00020003, 0x00000005] = .packet (.vline 4 3 2 5) [] := by decide +kernel

theorem test_decode_fillrect :
    decodeVideo .binary32 [0x05000001, 0xFFFF0002, 0x00030005] = .packet (.fillrect 1 2 (-1) 5 3) [] := by decide +kernel

theorem test_decode_blit :
    decodeVideo .binary32 [0x06000002, 0x00000000, 0x00000005, 0x04030201, 0x00000005] = .packet (.blit 2 0 0 [1, 2, 3, 4, 5]) [] := by decide +kernel

theorem test_decode_flip :
    decodeVideo .binary32 [0x07000000] = .packet .flip [] := by decide +kernel

theorem test_decode_palwr :
    decodeVideo .binary32 [0x10000001, 0x00FF0000] = .packet (.palwr 1 ⟨255, 0, 0⟩) [] := by decide +kernel

theorem test_decode_palrd :
    decodeVideo .binary32 [0x11000001] = .packet (.palrd 1) [] := by decide +kernel

theorem test_decode_setgrad :
    decodeVideo .binary32 [0x12000010, 0x00000005, 0x00000000, 0x00FF8040] = .packet (.setgrad 16 5 ⟨0, 0, 0⟩ ⟨255, 128, 64⟩) [] := by decide +kernel

theorem test_decode_rotpal :
    decodeVideo .binary32 [0x13008010, 0x00000005] = .packet (.rotpal 16 true 5) [] := by decide +kernel

theorem test_decode_commit :
    decodeVideo .binary32 [0x14000000] = .packet .commit [] := by decide +kernel

theorem test_decode_pullf2b :
    decodeVideo .binary32 [0x15000000] = .packet .pullf2b [] := by decide +kernel

theorem test_decode_run :
    decodeVideo .binary32 [0x2000003C] = .packet (.run 60) [] := by decide +kernel

theorem test_decode_hookret :
    decodeVideo .binary32 [0x21000000] = .packet .hookret [] := by decide +kernel

theorem test_decode_oscnext :
    decodeAudio .binary32 [0x40000000] = .packet (.oscnext 0) [] := by decide +kernel

theorem test_decode_oscrst :
    decodeAudio .binary32 [0x41000000] = .packet (.oscrst 0) [] := by decide +kernel

theorem test_decode_oscnote :
    decodeAudio .binary32 [0x4200FFFF] = .packet (.oscnote 0 (-1)) [] := by decide +kernel

theorem test_decode_oscfreq :
    decodeAudio .binary32 [0x43000000, 0x40000000] = .packet (.oscfreq 0 0x40000000) [] := by decide +kernel

theorem test_decode_oscdet :
    decodeAudio .binary32 [0x44000000, 0x00000000] = .packet (.oscdet 0 0) [] := by decide +kernel

theorem test_decode_oscwave :
    decodeAudio .binary32 [0x45000001] = .packet (.oscwave 0 1) [] := by decide +kernel

theorem test_decode_envnext :
    decodeAudio .binary32 [0x50000000] = .packet (.envnext 0) [] := by decide +kernel

theorem test_decode_envon :
    decodeAudio .binary32 [0x51000000] = .packet (.envon 0) [] := by decide +kernel

theorem test_decode_envoff :
    decodeAudio .binary32 [0x52000000] = .packet (.envoff 0) [] := by decide +kernel

theorem test_decode_envrst :
    decodeAudio .binary32 [0x53000000] = .packet (.envrst 0) [] := by decide +kernel

theorem test_decode_envatk :
    decodeAudio .binary32 [0x54000000, 0x3E800000] = .packet (.envatk 0 0x3E800000) [] := by decide +kernel

theorem test_decode_envdec :
    decodeAudio .binary32 [0x55000000, 0x3F000000] = .packet (.envdec 0 0x3F000000) [] := by decide +kernel

theorem test_decode_envsus :
    decodeAudio .binary32 [0x56000000, 0x3F000000] = .packet (.envsus 0 0x3F000000) [] := by decide +kernel

theorem test_decode_envrel :
    decodeAudio .binary32 [0x57000000, 0x3F000000] = .packet (.envrel 0 0x3F000000) [] := by decide +kernel

theorem test_decode_fltproc :
    decodeAudio .binary32 [0x60000000, 0x3F800000] = .packet (.fltproc 0 0x3F800000) [] := by decide +kernel

theorem test_decode_fltrst :
    decodeAudio .binary32 [0x61000000] = .packet (.fltrst 0) [] := by decide +kernel

theorem test_decode_flttype :
    decodeAudio .binary32 [0x62000001] = .packet (.flttype 0 1) [] := by decide +kernel

theorem test_decode_fltcut :
    decodeAudio .binary32 [0x63000000, 0x40000000] = .packet (.fltcut 0 0x40000000) [] := by decide +kernel

theorem test_decode_fltres :
    decodeAudio .binary32 [0x64000000, 0x3F000000] = .packet (.fltres 0 0x3F000000) [] := by decide +kernel

theorem test_decode_voice :
    decodeAudio .binary32 [0x68010000] = .packet (.voice 1) [] := by decide +kernel

theorem test_decode_spanwr :
    decodeAudio .binary32 [0x70000002, 0x0000FF9C] = .packet (.spanwr 2 (-100)) [] := by decide +kernel

theorem test_decode_fillret :
    decodeAudio .binary32 [0x71000001] = .packet (.fillret true) [] := by decide +kernel

theorem test_decode_abufwr :
    decodeAudio .binary32 [0x72000000, 0x00000001] = .packet (.abufwr 0 1) [] := by decide +kernel

theorem test_decode_abufrdy :
    decodeAudio .binary32 [0x73000000] = .packet .abufrdy [] := by decide +kernel

/-- R107: the low word of a binary64 operand comes first. -/
theorem test_decode_binary64 :
    decodeAudio .binary64 [0x43000000, 0x00000000, 0x40000000] = .packet (.oscfreq 0 0x4000000000000000) [] := by
  decide +kernel

/-- R116: the codes of `SEQ.PHASE`, and the signal. -/
theorem test_decode_steps :
    [decodeTableWord 8 1, decodeTableWord 8 2, decodeTableWord 8 3, decodeTableWord 8 4, decodeTableWord 8 5,
      decodeTableWord 8 6, decodeTableWord 8 7, decodeTableWord 0 0] =
    [some .seqFramedraw, some .seqScanline, some .seqFlip, some .seqCommit, some .seqPresent, some .seqPace,
      none, some (.pull 0)] := by
  decide +kernel

/-- Vectors F1 to F4: reserved opcode, reserved header bit, the other port's opcode, reserved operand bits. -/
theorem test_decode_illegal :
    decodeVideo .binary32 [0x00000000] = .illegal (.unknownOpcode 0) [] ∧
    decodeVideo .binary32 [0x01000105, 0x00010001] = .illegal (.reservedHeaderBits 0x01000105) [] ∧
    decodeVideo .binary32 [0x40000000] = .illegal (.unknownOpcode 0x40) [] ∧
    decodeVideo .binary32 [0x10000001, 0x01FF0000] = .illegal (.reservedOperandBits 0x10000001) [] := by
  decide +kernel

/-- R101: a packet is read when its last word is there. -/
theorem test_decode_short :
    decodeVideo .binary32 [0x01000005] = .short ∧ decodeVideo .binary32 [0x06000002, 0, 5, 0x04030201] = .short := by
  decide +kernel

/-! ### Small states -/

/-- A voice at reset with the value 0 for its noise draw. -/
def voice0 : Voice := ⟨Osc.reset 0, Env.reset, Filter.reset⟩

/-- The reset state with that voice: no free value in it. -/
def base : State := { State.reset with audio := { State.reset.audio with voices := [voice0] } }

/-- `base` in a phase. -/
def inPhase (p : Phase) : State := { base with video := { base.video with phase := p } }

/-- `base` with its one voice replaced. -/
def withVoice0 (vc : Voice) : State := { base with audio := { base.audio with voices := [vc] } }

/-- `base` in BUFFERED mode. -/
def buffered (ready : Bool) : State :=
  { base with cfg := { base.cfg with audioMode := .buffered }, audio := { base.audio with aready := ready } }

/-- `base` with a fill window of `n` slots open. -/
def filling (n : BitVec 16) : State :=
  { base with audio := { base.audio with fillActive := true, fillN := n } }

/-- `base` with a faulted video domain. -/
def haltedVideo : State := { base with video := { base.video with fault := ⟨true, 1⟩ } }

/-- `base` with a faulted audio domain. -/
def haltedAudio : State := { base with audio := { base.audio with fault := ⟨true, 1⟩ } }

/-- `base` with one move on the agenda. -/
def moving (s : State) (m : Move) : State := { s with agenda := [m] }

/-- The next state, if there is one. -/
def after (o : Host.Outcome State Fault Refusal) : Option State :=
  match o with
  | .next s => some s
  | _ => none

/-- The back array of the next state, W = H = 4. -/
def back (o : Host.Outcome State Fault Refusal) : Option (List Byte) :=
  (after o).map fun s => (List.range 16).map s.video.pixel

/-- The back table's entries `first .. first + n - 1` of the next state. -/
def entries (o : Host.Outcome State Fault Refusal) (first n : Nat) : Option (List RGB) :=
  (after o).map fun s => (List.range n).map fun k => s.video.entry (first + k)

/-- Latch and cause of the video domain in the next state. -/
def vlatch (o : Host.Outcome State Fault Refusal) : Option FaultLatch := (after o).map fun s => s.video.fault

/-- Latch and cause of the audio domain in the next state. -/
def alatch (o : Host.Outcome State Fault Refusal) : Option FaultLatch := (after o).map fun s => s.audio.fault

/-- The words responded on ARSP in the next state. -/
def arsp (o : Host.Outcome State Fault Refusal) : Option (List Word) := (after o).map fun s => s.audio.arsp

/-! ### The framebuffer (vectors B1 to B15, F7, F8, F12) -/

theorem test_putpixel : back (exec (.putpixel 5 1 1) base) =
    some [0, 0, 0, 0, 0, 5, 0, 0, 0, 0, 0, 0, 0, 0, 0, 0] := by decide +kernel

theorem test_putpixel_outside : vlatch (exec (.putpixel 1 4 0) base) = some ⟨true, 6⟩ ∧
    back (exec (.putpixel 1 4 0) base) = some (List.replicate 16 0) := by decide +kernel

theorem test_clear : back (exec (.clear 7) base) = some (List.replicate 16 7) := by decide +kernel

theorem test_clear_in_scanline : vlatch (exec (.clear 0) (inPhase .scanline)) = some ⟨true, 2⟩ := by decide +kernel

theorem test_hline_left : back (exec (.hline 9 (-1) 2 3) base) =
    some [0, 0, 0, 0, 0, 0, 0, 0, 9, 9, 0, 0, 0, 0, 0, 0] := by decide +kernel

theorem test_hline_right : back (exec (.hline 3 2 1 100) base) =
    some [0, 0, 0, 0, 0, 0, 3, 3, 0, 0, 0, 0, 0, 0, 0, 0] := by decide +kernel

theorem test_vline : back (exec (.vline 4 3 2 5) base) =
    some [0, 0, 0, 0, 0, 0, 0, 0, 0, 0, 0, 4, 0, 0, 0, 4] := by decide +kernel

theorem test_vline_does_not_wrap : back (exec (.vline 2 0 (-32768) 32767) base) =
    some (List.replicate 16 0) := by decide +kernel

theorem test_fillrect : back (exec (.fillrect 1 2 (-1) 5 3) base) =
    some [0, 0, 1, 1, 0, 0, 1, 1, 0, 0, 0, 0, 0, 0, 0, 0] := by decide +kernel

theorem test_blit : back (exec (.blit 2 0 0 [1, 2, 3, 4, 5]) base) =
    some [1, 2, 0, 0, 3, 4, 0, 0, 0, 0, 0, 0, 0, 0, 0, 0] := by decide +kernel

theorem test_blit_corner : back (exec (.blit 2 (-1) (-1) [1, 2, 3, 4]) base) =
    some [4, 0, 0, 0, 0, 0, 0, 0, 0, 0, 0, 0, 0, 0, 0, 0] := by decide +kernel

/-- Vector F9, and the exchange of R137. -/
theorem test_flip : vlatch (exec .flip (inPhase .framedraw)) = some ⟨true, 3⟩ ∧
    (after (exec .flip base)).map (fun s => s.video.fbsel) = some true := by decide +kernel

/-! ### The palette (vectors L1 to L18, F13, F14) -/

/-- Entries 10 to 13 of the back table are four colours. -/
def fourColours : State :=
  { base with
    video := { base.video with pal1 := [(10, ⟨1, 0, 0⟩), (11, ⟨2, 0, 0⟩), (12, ⟨3, 0, 0⟩), (13, ⟨4, 0, 0⟩)] } }

theorem test_palwr : entries (exec (.palwr 1 ⟨255, 0, 0⟩) base) 0 3 =
    some [⟨0, 0, 0⟩, ⟨255, 0, 0⟩, ⟨0, 0, 0⟩] := by decide +kernel

theorem test_palrd : (after (exec (.palrd 12) fourColours)).map (fun s => s.video.vrsp) = some [0x00030000] := by
  decide +kernel

theorem test_setgrad : entries (exec (.setgrad 16 5 ⟨0, 0, 0⟩ ⟨255, 128, 64⟩) base) 16 5 =
    some [⟨0, 0, 0⟩, ⟨64, 32, 16⟩, ⟨128, 64, 32⟩, ⟨191, 96, 48⟩, ⟨255, 128, 64⟩] := by decide +kernel

theorem test_setgrad_faults : vlatch (exec (.setgrad 250 10 ⟨0, 0, 0⟩ ⟨1, 1, 1⟩) base) = some ⟨true, 6⟩ ∧
    vlatch (exec (.setgrad 250 300 ⟨0, 0, 0⟩ ⟨1, 1, 1⟩) base) = some ⟨true, 4⟩ := by decide +kernel

/-- `GRAD_ROUND` as floor, as ceiling (R15), and with a cut of its own in the interval from 1 to 2. -/
theorem test_gradRound_cuts : ((List.range 5).map fun i => gradRound [⟨1, 1⟩, ⟨1, 1⟩] i 2) = [0, 0, 1, 1, 2] ∧
    ((List.range 5).map fun i => gradRound [⟨0, 1⟩, ⟨0, 1⟩] i 2) = [0, 1, 1, 2, 2] ∧
    ((List.range 5).map fun i => gradRound [⟨1, 1⟩] i 2) = [0, 0, 1, 2, 2] := by decide +kernel

theorem test_rotpal_forward : entries (exec (.rotpal 10 false 4) fourColours) 10 4 =
    some [⟨4, 0, 0⟩, ⟨1, 0, 0⟩, ⟨2, 0, 0⟩, ⟨3, 0, 0⟩] := by decide +kernel

theorem test_rotpal_reverse : entries (exec (.rotpal 10 true 4) fourColours) 10 4 =
    some [⟨2, 0, 0⟩, ⟨3, 0, 0⟩, ⟨4, 0, 0⟩, ⟨1, 0, 0⟩] := by decide +kernel

theorem test_commit : (after (exec .commit fourColours)).map (fun s => s.video.shownEntry 10) =
    some ⟨1, 0, 0⟩ := by decide +kernel

theorem test_pullf2b : entries (exec .pullf2b { fourColours with video := fourColours.video.commitRoles }) 10 2 =
    some [⟨1, 0, 0⟩, ⟨2, 0, 0⟩] := by decide +kernel

/-! ### The sequencer (vectors Q1 to Q10, F6, F10, F11) -/

theorem test_run :
    (after (exec (.run 60) { base with video := { base.video with now := 5000 } })).map
      (fun s => (s.video.tpf, s.video.deadline, s.video.phase, s.video.events)) =
    some (16, 5000, .framedraw, [.hookreqFrame]) := by decide +kernel

theorem test_run_after_quit :
    (after (exec (.run 60) { base with video := { base.video with quit := true } })).map
      (fun s => (s.video.phase, s.video.events, s.video.fault.valid)) = some (.stopped, [], false) := by
  decide +kernel

theorem test_hookret : (after (exec .hookret (inPhase .framedraw))).map
    (fun s => (s.video.phase, s.video.events)) = some (.scanline, [.hookreqScanline 0]) := by decide +kernel

/-- Scanline `l` of four. -/
def onLine (l : BitVec 16) : State :=
  { base with video := { base.video with phase := .scanline, line := l } }

theorem test_hookret_last_line : (after (exec .hookret (onLine 3))).map
    (fun s => (s.video.phase, s.video.line, s.video.events)) = some (.flip, 3, []) := by decide +kernel

theorem test_seqFramedraw : (after (exec .seqFramedraw (inPhase .framedraw))).map (fun s => s.video) =
    some (inPhase .framedraw).video := by decide +kernel

theorem test_seqScanline : (after (exec .seqScanline (onLine 2))).map (fun s => s.video) =
    some (onLine 2).video := by decide +kernel

theorem test_seqFlip : (after (exec .seqFlip (inPhase .flip))).map
    (fun s => (s.video.fbsel, s.video.palsel, s.video.phase)) = some (true, false, .commit) := by decide +kernel

theorem test_seqCommit : (after (exec .seqCommit (inPhase .commit))).map
    (fun s => (s.video.fbsel, s.video.palsel, s.video.phase)) = some (false, true, .present) := by decide +kernel

theorem test_seqPresent : (after (exec .seqPresent (inPhase .present))).map (fun s => s.video.phase) =
    some .present ∧
    (after (exec .seqPresent { inPhase .present with
      video := { (inPhase .present).video with presentReady := true } })).map
      (fun s => (s.video.phase, s.video.events)) =
    some (.pace, [.present (List.replicate 16 0) (List.replicate 256 ⟨0, 0, 0⟩)]) := by decide +kernel

/-- PACE with deadline 5000 and a period of 16. -/
def pacing (now : BitVec 64) (quit : Bool) : State :=
  { base with
    video := { base.video with phase := .pace, deadline := 5000, tpf := 16, now := now, quit := quit } }

theorem test_seqPace_waits : (after (exec .seqPace (pacing 5015 false))).map
    (fun s => (s.video.phase, s.video.deadline)) = some (.pace, 5000) := by decide +kernel

theorem test_seqPace_fires : (after (exec .seqPace (pacing 5040 false))).map
    (fun s => (s.video.phase, s.video.deadline, s.video.events)) = some (.framedraw, 5016, [.hookreqFrame]) := by
  decide +kernel

/-! ### The oscillator (vectors O3, O4, O7, O9, F16, F17, F20), SR = 8, binary32 -/

/-- A voice with `FREQ`, no detune, a waveform and a phase. -/
def oscVoice (freq phase : FReal) (w : Waveform) : Voice :=
  { voice0 with osc := { voice0.osc with freq := ⟨freq, true⟩, detune := ⟨0, true⟩, wave := ⟨w, true⟩, phase := phase } }

/-- The response and the next phase. -/
def oscOut (vc : Voice) : Option (List Word × List FReal) :=
  (after (exec (.oscnext 0) (withVoice0 vc))).map fun s => (s.audio.arsp, s.audio.voices.map fun v => v.osc.phase)

/-- Sawtooth at 2 Hz from phase 0.25: the sample is -0.5, the phase goes to 0.5. -/
theorem test_oscnext_sawtooth : oscOut (oscVoice 0x40000000 0x3E800000 .sawtooth) =
    some ([0xBF000000], [0x3F000000]) := by decide +kernel

/-- Vector O7: at -2 Hz from phase 0 the phase wraps to 0.75. -/
theorem test_oscnext_backwards : oscOut (oscVoice 0xC0000000 0 .sawtooth) =
    some ([0xBF800000], [0x3F400000]) := by decide +kernel

theorem test_oscrst : (after (exec (.oscrst 0) (withVoice0 (oscVoice 0x40000000 0x3F400000 .sine)))).map
    (fun s => s.audio.voices.map fun v => v.osc.phase) = some [0] := by decide +kernel

/-- Vector O12: n = 69 and 81 give 440 and 880 exactly. -/
theorem test_oscnote : (after (exec (.oscnote 0 69) base)).map
      (fun s => s.audio.voices.map fun v => v.osc.freq) = some [⟨0x43DC0000, true⟩] ∧
    (after (exec (.oscnote 0 81) base)).map
      (fun s => s.audio.voices.map fun v => v.osc.freq) = some [⟨0x445C0000, true⟩] := by decide +kernel

theorem test_oscfreq_nan : alatch (exec (.oscfreq 0 0x7FC00000) base) = some ⟨true, 4⟩ := by decide +kernel

/-- Vector O11: 440 Hz with 1200 cents is 880 exactly. -/
theorem test_oscdet : (after (exec (.oscdet 0 0x44960000) base)).map
      (fun s => s.audio.voices.map fun v => v.osc.detune) = some [⟨0x44960000, true⟩] ∧
    effFreq .binary32 0x43DC0000 0x44960000 = 0x445C0000 := by decide +kernel

theorem test_oscwave : alatch (exec (.oscwave 0 5) base) = some ⟨true, 4⟩ ∧
    (after (exec (.oscwave 0 3) base)).map (fun s => s.audio.voices.map fun v => v.osc.wave) =
      some [⟨.triangle, true⟩] := by decide +kernel

/-! ### The envelope (vectors E1 to E12, F19, F27, F28) -/

/-- ATTACK 0.25, DECAY 0.5, SUSTAIN 0.5, RELEASE 0.5. -/
def envVoice (st : Stage) (value relstart : FReal) : Voice :=
  { voice0 with
    env :=
      { stage := st, value := value, relstart := relstart
        attack := ⟨0x3E800000, true⟩, decay := ⟨0x3F000000, true⟩
        sustain := ⟨0x3F000000, true⟩, release := ⟨0x3F000000, true⟩ } }

/-- Stage and value afterwards. -/
def envOut (i : Instr) (vc : Voice) : Option (List (Stage × FReal)) :=
  (after (exec i (withVoice0 vc))).map fun s => s.audio.voices.map fun v => (v.env.stage, v.env.value)

theorem test_envnext_attack : envOut (.envnext 0) (envVoice .attack 0 0) = some [(.attack, 0x3F000000)] ∧
    envOut (.envnext 0) (envVoice .attack 0x3F000000 0) = some [(.decay, 0x3F800000)] := by decide +kernel

theorem test_envnext_release :
    envOut (.envnext 0) (envVoice .release 0x3F000000 0x3F000000) = some [(.release, 0x3EC00000)] ∧
    envOut (.envnext 0) (envVoice .release 0x3E000000 0x3F000000) = some [(.idle, 0)] := by decide +kernel

theorem test_envon : envOut (.envon 0) (envVoice .release 0x3E800000 0x3F000000) =
    some [(.attack, 0x3E800000)] := by decide +kernel

theorem test_envoff : (after (exec (.envoff 0) (withVoice0 (envVoice .release 0x3E800000 0x3F000000)))).map
    (fun s => s.audio.voices.map fun v => (v.env.stage, v.env.relstart)) = some [(.release, 0x3E800000)] := by
  decide +kernel

theorem test_envrst : envOut (.envrst 0) (envVoice .decay 0x3F4CCCCD 0) = some [(.idle, 0)] := by decide +kernel

theorem test_envatk : (after (exec (.envatk 0 0x3E800000) base)).map
    (fun s => s.audio.voices.map fun v => v.env.attack) = some [⟨0x3E800000, true⟩] := by decide +kernel

theorem test_envdec : (after (exec (.envdec 0 0x3F000000) base)).map
    (fun s => s.audio.voices.map fun v => v.env.decay) = some [⟨0x3F000000, true⟩] := by decide +kernel

theorem test_envsus : alatch (exec (.envsus 0 0x3FC00000) base) = some ⟨true, 4⟩ ∧
    (after (exec (.envsus 0 0x3F800000) base)).map (fun s => s.audio.voices.map fun v => v.env.sustain) =
      some [⟨0x3F800000, true⟩] := by decide +kernel

theorem test_envrel : (after (exec (.envrel 0 0x3F000000) base)).map
    (fun s => s.audio.voices.map fun v => v.env.release) = some [⟨0x3F000000, true⟩] := by decide +kernel

/-! ### The filter (vectors Y1, Y2, F18), coefficients 0.25, 0.5, 0.25, 0, 0 -/

/-- The coefficients of vector Y1 in place, and a delay line. -/
def fltVoice (x1 x2 y1 y2 : FReal) : Voice :=
  { voice0 with
    flt :=
      { voice0.flt with
        b0 := 0x3E800000, b1 := 0x3F000000, b2 := 0x3E800000, a1 := 0, a2 := 0, dirty := false
        x1 := x1, x2 := x2, y1 := y1, y2 := y2 } }

/-- Vector Y2, the second input: 0.75. -/
theorem test_fltproc : arsp (exec (.fltproc 0 0x3F800000) (withVoice0 (fltVoice 0x3F800000 0 0x3E800000 0))) =
    some [0x3F400000] := by decide +kernel

/-- R247: the first FLTPROC, not the set command, finds the unwritten parameter. -/
theorem test_fltproc_uninit : alatch (exec (.fltproc 0 0x3F800000) base) = some ⟨true, 5⟩ := by decide +kernel

theorem test_fltrst : (after (exec (.fltrst 0) (withVoice0 (fltVoice 1 1 1 1)))).map
    (fun s => s.audio.voices) = some [fltVoice 0 0 0 0] := by decide +kernel

theorem test_flttype : alatch (exec (.flttype 0 3) base) = some ⟨true, 4⟩ ∧
    (after (exec (.flttype 0 2) (withVoice0 (fltVoice 0 0 0 0)))).map
      (fun s => s.audio.voices.map fun v => (v.flt.ftype, v.flt.dirty)) =
      some [(⟨.bandpass, true⟩, true)] := by decide +kernel

theorem test_fltcut : (after (exec (.fltcut 0 0x42C80000) (withVoice0 (fltVoice 0 0 0 0)))).map
    (fun s => s.audio.voices.map fun v => (v.flt.cutoff, v.flt.dirty)) = some [(⟨0x42C80000, true⟩, true)] := by
  decide +kernel

theorem test_fltres : (after (exec (.fltres 0 0xC0A00000) (withVoice0 (fltVoice 0 0 0 0)))).map
    (fun s => s.audio.voices.map fun v => (v.flt.res, v.flt.dirty)) = some [(⟨0xC0A00000, true⟩, true)] := by
  decide +kernel

/-- Vector Y9: the cutoff 100 is clamped to 3, and 0 to 1; Y10: the resonance -5 is floored at 0.01. -/
theorem test_clamps : clampCutoff Config.vectors 0x42C80000 = 0x40400000 ∧
    clampCutoff Config.vectors 0 = 0x3F800000 ∧ floorRes Config.vectors 0xC0A00000 = 0x3C23D70A := by
  decide +kernel

/-! ### The voice and the adapter (vectors A1 to A11, F16, F21 to F24, F26) -/

/-- Square at 2 Hz, the coefficients of Y1 in place, the envelope in Attack. -/
def chainVoice : Voice :=
  { osc := (oscVoice 0x40000000 0 .square).osc, env := (envVoice .attack 0 0).env, flt := (fltVoice 0 0 0 0).flt }

/-- Vector A1, the first response: 0.125. -/
theorem test_voice : arsp (exec (.voice 0) (withVoice0 chainVoice)) = some [0x3E000000] := by decide +kernel

theorem test_voice_uninit : alatch (exec (.voice 0) base) = some ⟨true, 5⟩ ∧
    arsp (exec (.voice 0) base) = some [] := by decide +kernel

theorem test_spanwr : (after (exec (.spanwr 2 (-100)) (filling 4))).map (fun s => s.audio.span) =
    some [0, 0, -100, 0] := by decide +kernel

/-- Vector F22: the fault closes the window with silence. -/
theorem test_spanwr_past_the_request : (after (exec (.spanwr 4 1) (filling 4))).map
    (fun s => (s.audio.fault, s.audio.fillActive, s.audio.events)) =
    some (⟨true, 4⟩, false, [.deliver [0, 0, 0, 0]]) := by decide +kernel

/-- A fill window of two slots with two samples written. -/
def filled : State := { filling 2 with audio := { (filling 2).audio with span := [7, 9, 0, 0] } }

theorem test_fillret : (after (exec (.fillret false) filled)).map (fun s => (s.audio.fillActive, s.audio.events)) =
    some (false, [.deliver [7, 9]]) := by decide +kernel

theorem test_fillret_err : (after (exec (.fillret true) filled)).map (fun s => (s.audio.fillActive, s.audio.events)) =
    some (false, [.deliver [0, 0]]) := by decide +kernel

theorem test_abufwr : (after (exec (.abufwr 3 4) (buffered false))).map
    (fun s => (s.audio.backSample 3, s.audio.frontSample 3)) = some (4, 0) := by decide +kernel

theorem test_abufwr_not_owned : alatch (exec (.abufwr 0 1) (buffered true)) = some ⟨true, 3⟩ := by decide +kernel

theorem test_abufrdy : (after (exec .abufrdy (buffered false))).map (fun s => s.audio.aready) = some true ∧
    alatch (exec .abufrdy base) = some ⟨true, 2⟩ := by decide +kernel

/-- Vector A7. -/
theorem test_pull_buffered :
    (after (exec (.pull 4) { buffered true with
      audio := { (buffered true).audio with abuf1 := [(0, 1), (1, 2), (2, 3), (3, 4)] } })).map
      (fun s => (s.audio.asel, s.audio.aready, s.audio.events)) =
    some (true, false, [.deliver [1, 2, 3, 4], .prodreq]) := by decide +kernel

/-- Vector F26. -/
theorem test_pull_after_a_fault : (after (exec (.pull 3) haltedAudio)).map (fun s => s.audio.events) =
    some [.deliver [0, 0, 0]] := by decide +kernel

/-! ### Witnesses: for each statement with hypotheses, a state and operands that meet them -/

/-- `base` with words at VCMD and the video domain's turn. -/
def atVcmd (p : Phase) (ws : List Word) : State :=
  moving { base with video := { base.video with phase := p, vcmd := ws } } .video

/-- `base` with one voice, words at ACMD and the audio executor's turn. -/
def atAcmd (vc : Voice) (ws : List Word) : State :=
  moving { base with audio := { base.audio with voices := [vc], acmd := ws } } .audio

theorem wit_PacketsRoundTrip :
    (Instr.blit 0xFFFF 0x8000 0x7FFF [1, 2, 3, 4, 5]).wf .binary32 = true ∧
    (Instr.blit 0xFFFF 0x8000 0x7FFF [1, 2, 3, 4, 5]).port = .vcmd ∧
    (Instr.fltproc 255 0xFFFFFFFF).wf .binary32 = true ∧ (Instr.fltproc 255 0xFFFFFFFF).port = .acmd := by decide

theorem wit_PacketsHaveOneEncoding :
    decodeVideo .binary32 [0x07000000, 0xFFFFFFFF] = .packet .flip [0xFFFFFFFF] ∧
    decodeAudio .binary64 [0x60FF0000, 1, 2, 3] = .packet (.fltproc 255 0x0000000200000001) [3] := by
  decide +kernel

theorem hdrOpc_header (o : BitVec 8) (u : Byte) (a : BitVec 16) : hdrOpc (header o u a) = o := by
  unfold hdrOpc header
  ext i hi
  simp only [BitVec.getElem_extractLsb', BitVec.getLsbD_append]
  rw [if_neg (by omega), if_neg (by omega)]
  rw [show 24 + i - 16 - 8 = i by omega, BitVec.getLsbD_eq_getElem hi]

/-- A FLIP with a reserved bit set has the shape of a packet and is no instruction's encoding. -/
theorem wit_PacketsHaveOneEncoding_illegal :
    (Instr.flip.wf .binary32 = true ∧ Instr.flip.port = .vcmd ∧
      [(0x07000001 : Word)].length = (encode .binary32 .flip).length ∧
      hdrOpc 0x07000001 = hdrOpc ((encode .binary32 .flip).headD 0) ∧ hdrOpc 0x07000001 ≠ 0x06) ∧
    ∀ j : Instr, j.wf .binary32 = true → encode .binary32 j ≠ [0x07000001] := by
  refine ⟨by decide, fun j _ h => ?_⟩
  have h' := congrArg (fun ws => hdrOpc (ws.headD 0)) h
  cases j <;> simp only [encode, List.headD_cons, hdrOpc_header] at h' <;>
    first | (revert h; decide) | (revert h'; decide)

/-- A set pad byte of a BLIT and the bits above its length field (R113 (4)). -/
theorem test_blit_reserved_bits :
    decodeVideo .binary32 [0x06000001, 0, 1, 0x105, 9] = .illegal (.reservedOperandBits 0x06000001) [9] ∧
    decodeVideo .binary32 [0x06000001, 0, 0x01000001, 5, 9] = .illegal (.reservedOperandBits 0x06000001) [9] := by
  decide +kernel

/-- A foreign opcode on each port; a packet with a must-be-zero operand field set, with words after it. -/
theorem wit_IllegalPacketsFault :
    (hdrOpc 0x22000000 ∉ videoOpcodes ∧ hdrOpc 0x21000000 ∉ audioOpcodes) ∧
    ((atVcmd .scanline [0x13000001, 0x00010002, 7]).inReset = false ∧
      (atVcmd .scanline [0x13000001, 0x00010002, 7]).nextMove.1 = .video ∧
      (atVcmd .scanline [0x13000001, 0x00010002, 7]).canPaint ∧
      decodeVideo .binary32 [0x13000001, 0x00010002, 7] = .illegal (.reservedOperandBits 0x13000001) [7]) ∧
    ((atAcmd voice0 [0x53000001, 7]).nextMove.1 = .audio ∧ (atAcmd voice0 [0x53000001, 7]).audioRuns ∧
      decodeAudio .binary32 [0x53000001, 7] = .illegal (.reservedHeaderBits 0x53000001) [7]) := by
  decide +kernel

theorem wit_StepRunsDecodedPackets :
    ((atVcmd .framedraw [0x02000007]).inReset = false ∧ (atVcmd .framedraw [0x02000007]).nextMove.1 = .video ∧
      (atVcmd .framedraw [0x02000007]).canPaint ∧
      decodeVideo (atVcmd .framedraw [0x02000007]).cfg.fmt (atVcmd .framedraw [0x02000007]).video.vcmd =
        .packet (.clear 7) []) ∧
    ((atAcmd voice0 [0x51000000]).nextMove.1 = .audio ∧ (atAcmd voice0 [0x51000000]).audioRuns ∧
      decodeAudio (atAcmd voice0 [0x51000000]).cfg.fmt (atAcmd voice0 [0x51000000]).audio.acmd =
        .packet (.envon 0) []) := by decide +kernel

theorem wit_StepRunsSequencerAndPull :
    (∀ p ∈ [Phase.flip, .commit, .present, .pace, .framedraw, .scanline, .stopped],
      (atVcmd p [0x01000005]).inReset = false ∧ (atVcmd p [0x01000005]).nextMove.1 = .video ∧
      (atVcmd p [0x01000005]).video.fault.valid = false ∧ (atVcmd p [0x01000005]).video.phase = p ∧
      decodeVideo .binary32 (atVcmd p [0x01000005]).video.vcmd = .short) ∧
    ((atAcmd voice0 [0x43000000]).nextMove.1 = .audio ∧ (atAcmd voice0 [0x43000000]).audioRuns ∧
      decodeAudio .binary32 (atAcmd voice0 [0x43000000]).audio.acmd = .short) ∧
    (moving base (.pull 4)).nextMove.1 = .pull 4 ∧ (moving base (.pull 4)).inReset = false := by decide +kernel

/-- A state in which `quit_req` has come and the next frame's hook window is open. -/
def quitting : State :=
  { atVcmd .framedraw [0x21000000] with
    video := { (atVcmd .framedraw [0x21000000]).video with quit := true } }

theorem wit_InputsLand : (moving (inPhase .pace) .quitReq).nextMove.1 = .quitReq ∧
    (∀ m ∈ [Move.presentReady true, .tick 0xFFFFFFFFFFFFFFFF, .vcmd 7, .acmd 7, .takeVrsp, .takeArsp,
        .reset true, .reset false],
      (moving base m).nextMove.1 = m ∧ base.cfg.sr ≠ 0) ∧
    (base.inReset = false ∧ (after (step (moving base (.reset true)))).map (fun s => s.inReset) = some true) ∧
    base.video.now.toNat + (0xFFFFFFFFFFFFFFFF : BitVec 64).toNat < 2 ^ 64 ∧
    quitting.releasesReset = false ∧ quitting.video.quit = true ∧ (after (step quitting)).isSome = true := by
  decide +kernel

theorem wit_ResetHoldsTheBlock : ∀ m ∈ [Move.video, .audio, .pull 5],
    ({ moving (atVcmd .flip [0x02000007]) m with inReset := true } : State).nextMove.1 = m ∧
    (after (step { moving (atVcmd .flip [0x02000007]) m with inReset := true })).isSome = true := by
  decide +kernel

theorem wit_ConfigurationIsFixed : (after (step (atVcmd .stopped [0x2000003C]))).isSome = true := by
  decide +kernel

/-- Reset about to be released in a halted video domain. -/
def releasing : State := { moving haltedVideo (.reset false) with inReset := true }

theorem wit_ReleaseOfResetResets : releasing.inReset = true ∧ releasing.nextMove.1 = .reset false := by decide

theorem wit_InvariantsHoldAtReset : Config.vectors.wf = true := by decide

theorem wit_StepKeepsMemories : (after (step (atVcmd .stopped [0x0100000F, 0x00030003]))).isSome = true ∧
    (atVcmd .stopped [0x0100000F, 0x00030003]).memoriesOk = true := by decide +kernel

theorem wit_StepKeepsSequencer : (after (step (atVcmd .framedraw [0x21000000]))).isSome = true ∧
    (atVcmd .framedraw [0x21000000]).sequencerOk = true := by decide +kernel

theorem wit_StepKeepsAdapter : (after (step (moving base (.pull 4)))).isSome = true ∧
    (moving base (.pull 4)).adapterOk = true := by decide +kernel

/-- The last line's hook returns, after a frame hook and four line hooks. -/
def lastLine : State :=
  { atVcmd .scanline [0x21000000] with
    video :=
      { (atVcmd .scanline [0x21000000]).video with
        line := 3
        events :=
          [.hookreqFrame, .hookreqScanline 0, .vrsp 7, .hookreqScanline 1, .hookreqScanline 2,
            .hookreqScanline 3] } }

theorem wit_StepKeepsEventOrder : lastLine.cfg.wf = true ∧ lastLine.releasesReset = false ∧
    (after (step lastLine)).isSome = true ∧ lastLine.traceOk = true := by decide +kernel

theorem wit_StepKeepsOscillators :
    (after (step (atAcmd (oscVoice 0xC0000000 0x3F7FFFFF .square) [0x40000000]))).isSome = true ∧
    (atAcmd (oscVoice 0xC0000000 0x3F7FFFFF .square) [0x40000000]).oscillatorsOk = true := by decide +kernel

theorem wit_StepKeepsEnvelopes :
    (after (step (atAcmd (envVoice .decay 0x3F800000 0) [0x50000000]))).isSome = true ∧
    (atAcmd (envVoice .decay 0x3F800000 0) [0x50000000]).envelopesOk = true := by decide +kernel

theorem wit_StepKeepsFilters :
    (after (step (atAcmd (fltVoice 0 0 0 0) [0x60000000, 0x3F800000]))).isSome = true ∧
    (atAcmd (fltVoice 0 0 0 0) [0x60000000, 0x3F800000]).filtersOk = true := by decide +kernel

theorem wit_FrontIsNeverWritten : (atVcmd .stopped [0x02000007]).releasesReset = false ∧
    (after (step (atVcmd .stopped [0x02000007]))).isSome = true ∧
    (after (step (atVcmd .stopped [0x02000007]))).map (fun t => (t.video.fbsel, t.video.palsel)) =
      some (false, false) := by decide +kernel

/-- Each of the three role bits changes somewhere. -/
theorem wit_RolesChangeOnlyAtExchanges :
    (after (step (atVcmd .flip []))).map (fun t => t.video.fbsel) = some true ∧
    (after (step (atVcmd .commit []))).map (fun t => t.video.palsel) = some true ∧
    (after (step (atVcmd .stopped [0x07000000]))).map (fun t => t.video.fbsel) = some true ∧
    (after (step (atVcmd .stopped [0x14000000]))).map (fun t => t.video.palsel) = some true ∧
    (after (step (moving (buffered true) (.pull 4)))).map (fun t => t.audio.asel) = some true ∧
    (atVcmd .flip []).releasesReset = false ∧ (atVcmd .commit []).releasesReset = false ∧
    (moving (buffered true) (.pull 4)).releasesReset = false := by decide +kernel

theorem wit_DomainsShareNothing :
    (atVcmd .stopped [0x07000000]).nextMove.1.ofVideo = true ∧
    (after (step (atVcmd .stopped [0x07000000]))).isSome = true ∧
    (atAcmd voice0 [0x51000000]).nextMove.1.ofAudio = true ∧
    (after (step (atAcmd voice0 [0x51000000]))).isSome = true := by decide +kernel

/-- Both orders of a CLEAR and a PULL come to a state. -/
theorem wit_DomainsCommute : Move.video.ofVideo = true ∧ (Move.pull 4).ofAudio = true ∧
    (after (Sys2Proof.core.run 2 { atVcmd .stopped [0x02000007] with agenda := [.video, .pull 4] })).isSome = true ∧
    (after (Sys2Proof.core.run 2 { atVcmd .stopped [0x02000007] with agenda := [.pull 4, .video] })).isSome =
      true := by decide +kernel

theorem wit_SequencerTransitions : lastLine.releasesReset = false ∧
    (after (step lastLine)).map (fun t => t.video.phase) = some .flip := by decide +kernel

theorem wit_AccessRights :
    vclassOf (.clear 7) = some .framebuffer ∧ vclassOf (.palrd 7) = some .palette ∧
    vclassOf .flip = some .exchange ∧ vclassOf (.run 60) = some .run ∧ vclassOf .hookret = some .hookret ∧
    ∀ p ∈ [Phase.stopped, .framedraw, .scanline, .flip, .commit, .present, .pace],
      (inPhase p).video.fault.valid = false ∧ (inPhase p).video.phase = p := by decide

theorem wit_VideoFaultHalts :
    ((Instr.putpixel 1 4 0).port = .vcmd ∧ base.video.fault.valid = false ∧
      vlatch (exec (.putpixel 1 4 0) base) = some ⟨true, 6⟩) ∧
    (Instr.seqFlip.port = .seq ∧ (after (exec .seqFlip (inPhase .flip))).isSome = true) ∧
    ((moving haltedVideo .video).releasesReset = false ∧ (moving haltedVideo .video).video.fault.valid = true ∧
      (after (step (moving haltedVideo .video))).isSome = true) := by decide +kernel

theorem wit_AudioFaultSilences :
    ((Instr.spanwr 4 1).port = .acmd ∧ (filling 4).audioRuns ∧
      alatch (exec (.spanwr 4 1) (filling 4)) = some ⟨true, 4⟩) ∧
    (haltedAudio.cfg.sr ≠ 0 ∧ haltedAudio.audio.fault.valid = true ∧ (4 : BitVec 16).toNat ≤ haltedAudio.cfg.abufSize) ∧
    ((moving haltedAudio (.pull 4)).releasesReset = false ∧
      (after (step (moving haltedAudio (.pull 4)))).isSome = true) := by decide +kernel

theorem wit_StageGraph : base.audio.voices[0]? = some voice0 ∧
    (after (exec (.envon 0) base)).map (fun t => t.audio.voices.map fun v => v.env.stage) = some [.attack] ∧
    voice0.env.stage = .idle := by decide +kernel

theorem wit_RunStartsTheLoop : base.isStopped ∧ base.video.quit = false ∧ (1 : BitVec 16) ≠ 0 ∧
    ({ base with video := { base.video with quit := true } } : State).isStopped ∧
    (inPhase .framedraw).inVideoHook ∧ (inPhase .scanline).inVideoHook := by decide

theorem wit_HookretReturns : (inPhase .framedraw).video.fault.valid = false ∧
    ((onLine 2).video.phase = .scanline ∧ (onLine 2).video.line.toNat + 1 < (onLine 2).cfg.h) ∧
    ((onLine 3).video.phase = .scanline ∧ (onLine 3).video.line.toNat + 1 = (onLine 3).cfg.h) ∧
    base.video.phase = .stopped := by decide

theorem wit_SequencerWaitsAndExchanges : ∀ p ∈ [Phase.framedraw, .scanline, .flip, .commit],
    (inPhase p).video.fault.valid = false ∧ (inPhase p).video.phase = p := by decide

/-- PRESENT with the backend ready. -/
def presenting : State :=
  { inPhase .present with video := { (inPhase .present).video with presentReady := true } }

theorem wit_PresentHandsOverTheFront :
    (presenting.video.fault.valid = false ∧ presenting.video.phase = .present ∧
      presenting.video.presentReady = true) ∧
    ((inPhase .present).video.phase = .present ∧ (inPhase .present).video.presentReady = false) := by decide

theorem wit_PaceAdvancesTheDeadline :
    ((pacing 5016 false).video.fault.valid = false ∧ (pacing 5016 false).video.phase = .pace ∧
      (pacing 5016 false).video.deadline.toNat + (pacing 5016 false).video.tpf.toNat ≤
        (pacing 5016 false).video.now.toNat ∧ (pacing 5016 false).video.quit = false) ∧
    (pacing 5016 true).video.quit = true ∧
    (pacing 5015 false).video.now.toNat <
      (pacing 5015 false).video.deadline.toNat + (pacing 5015 false).video.tpf.toNat := by decide

theorem wit_PutpixelWritesOnePixel :
    (base.canDraw ∧ (0 : Int) ≤ (3 : BitVec 16).toInt ∧ (3 : BitVec 16).toInt < base.cfg.w ∧
      (3 : BitVec 16).toInt < base.cfg.h) ∧
    ((inPhase .framedraw).canDraw ∧ ¬(4 : BitVec 16).toInt < base.cfg.w ∧ ¬(0 : Int) ≤ (-1 : BitVec 16).toInt) ∧
    (inPhase .scanline).inScanline := by decide

theorem wit_ClearFillsTheBackArray : (inPhase .framedraw).canDraw ∧ (inPhase .scanline).inScanline := by decide

theorem wit_ShapesAreClipped : base.canDraw ∧ (inPhase .scanline).inScanline := by decide

theorem wit_BlitCopiesTheRectangle : base.canDraw ∧ (2 : BitVec 16) ≠ 0 ∧ (inPhase .scanline).inScanline ∧
    (0 : Nat) < [(1 : Byte), 2, 3, 4].length / (2 : BitVec 16).toNat := by decide

theorem wit_ClippedDrawingIsThePlotLoop : base.canDraw ∧ memWf 0 base.video.fbBack = true ∧
    (2 : BitVec 16) ≠ 0 := by decide

theorem wit_ExchangePackets : base.isStopped ∧ (inPhase .framedraw).inVideoHook ∧
    (inPhase .scanline).inVideoHook := by decide

theorem wit_PaletteEntries : (inPhase .scanline).canPaint ∧ base.canPaint := by decide

theorem wit_SetgradWritesTheGradient : base.canPaint ∧ 256 < (257 : BitVec 16).toNat ∧
    ((2 : BitVec 16).toNat ≤ 256 ∧ 256 < (255 : Byte).toNat + (2 : BitVec 16).toNat) ∧
    ((1 : BitVec 16).toNat ≤ 256 ∧ (255 : Byte).toNat + (1 : BitVec 16).toNat ≤ 256) ∧
    ((256 : BitVec 16).toNat ≤ 256 ∧ (0 : Byte).toNat + (256 : BitVec 16).toNat ≤ 256 ∧
      1 < (256 : BitVec 16).toNat) := by decide

theorem wit_GradientShape : IsGradRound Int.floor ∧ (2 ≤ 256 ∧ 0 ≤ 255 ∧ 255 < 256 ∧
    (0 : Byte).toNat ≤ (255 : Byte).toNat) := by
  refine ⟨⟨fun n => Int.floor_intCast n, fun q => ?_, Int.floor_mono⟩, by decide⟩
  have h1 := Int.floor_le q
  have h2 := Int.lt_floor_add_one q
  rw [abs_lt]
  constructor <;> linarith

theorem wit_RotpalRotatesTheRange : (inPhase .scanline).canPaint ∧ 256 < (257 : BitVec 16).toNat ∧
    256 < (254 : Byte).toNat + (3 : BitVec 16).toNat ∧
    ((2 : BitVec 16).toNat ≤ 256 ∧ (254 : Byte).toNat + (2 : BitVec 16).toNat ≤ 256) := by decide

theorem wit_RotationIsUndone : fourColours.canPaint ∧ (4 : BitVec 16).toNat ≤ 256 ∧
    (10 : Byte).toNat + (4 : BitVec 16).toNat ≤ 256 := by decide

theorem wit_Pullf2bCopiesTheFront : (inPhase .scanline).canPaint := by decide

/-- Unwritten parameters; an overflowing frequency; a step without and a step with a wrap. -/
theorem wit_OscnextAdvances :
    (base.hasVoice 0 voice0 ∧ voice0.osc.freq.written = false) ∧
    ((withVoice0 (oscVoice 0x7F7FFFFF 0 .sine)).hasVoice 0 (oscVoice 0x7F7FFFFF 0 .sine) ∧
      isFinite .binary32 (effFreq .binary32 0x7F7FFFFF 0x7F7FFFFF) = false) ∧
    (oscOut (oscVoice 0x40000000 0 .square) = some ([0x3F800000], [0x3E800000]) ∧
      wrapped .binary32 0x3E800000 = false) ∧
    (wrapped .binary32 (fadd .binary32 0 0xBE800000) = true ∧ wrapped .binary32 0x3F800000 = true) := by
  decide +kernel

theorem wit_WaveformValues :
    (flt .binary32 0 (fhalf .binary32) = true ∧ fle .binary32 fzero 0 = true ∧ flt .binary32 0 (fone .binary32) = true) ∧
    (flt .binary32 0x3F000000 (fhalf .binary32) = false ∧ flt .binary32 0x3F7FFFFF (fone .binary32) = true ∧
      inUnit .binary32 0xBF800000 = true) := by decide +kernel

/-- The note 69 + 12·120 overflows binary32. -/
theorem wit_OscillatorCommands : base.hasVoice 0 voice0 ∧
    isFinite .binary32 (noteFreq .binary32 69) = true ∧ isFinite .binary32 (noteFreq .binary32 1509) = false ∧
    isFinite .binary32 0xFF7FFFFF = true ∧ waveformOf 4 = some .noise ∧ 4 < (5 : BitVec 3).toNat := by
  decide +kernel

theorem wit_EnvnextRunsOneStage : (∀ st ∈ [Stage.idle, .attack, .decay, .sustain, .release],
      (withVoice0 (envVoice st 0 0)).hasVoice 0 (envVoice st 0 0) ∧ (envVoice st 0 0).env.stage = st ∧
      (envVoice st 0 0).env.attack.written = true ∧ (envVoice st 0 0).env.decay.written = true ∧
      (envVoice st 0 0).env.sustain.written = true ∧ (envVoice st 0 0).env.release.written = true) ∧
    (let vc : Voice := { voice0 with env := { voice0.env with stage := .attack } }
     (withVoice0 vc).hasVoice 0 vc ∧ vc.env.stage = .attack ∧ vc.env.attack.written = false) := by decide

theorem wit_EnvelopeCommands : base.hasVoice 0 voice0 ∧ voice0.env.stage = .idle ∧
    (withVoice0 (envVoice .release 0 0)).hasVoice 0 (envVoice .release 0 0) ∧
    (envVoice .release 0 0).env.stage ≠ .idle ∧
    (isFinite .binary32 0x3F800000 = true ∧ inZeroOne .binary32 0x3F800000 = true) ∧
    (isFinite .binary32 0x3F800001 = true ∧ inZeroOne .binary32 0x3F800001 = false) := by decide +kernel

/-- A filter whose next output overflows. -/
def loudVoice : Voice := { voice0 with flt := { (fltVoice 0 0 0 0).flt with b0 := 0x7F7FFFFF } }

theorem wit_FltprocFilters :
    (base.hasVoice 0 voice0 ∧ isFinite .binary32 0x3F800000 = true ∧ voice0.flt.dirty = true ∧
      voice0.flt.ftype.written = false) ∧
    ((withVoice0 (fltVoice 0 0 0 0)).hasVoice 0 (fltVoice 0 0 0 0) ∧ (fltVoice 0 0 0 0).flt.dirty = false ∧
      isFinite .binary32 ((fltVoice 0 0 0 0).flt.output .binary32 0x3F800000) = true) ∧
    ((withVoice0 loudVoice).hasVoice 0 loudVoice ∧ loudVoice.flt.dirty = false ∧
      isFinite .binary32 (loudVoice.flt.output .binary32 0x40000000) = false) := by decide +kernel

/-- All three filter parameters written, the coefficients stale. -/
def staleVoice : Voice :=
  { voice0 with
    flt := { voice0.flt with ftype := ⟨.highpass, true⟩, cutoff := ⟨0x40000000, true⟩, res := ⟨0x3F000000, true⟩ } }

theorem wit_FltprocFilters_stale : (withVoice0 staleVoice).hasVoice 0 staleVoice ∧ staleVoice.flt.dirty = true ∧
    (staleVoice.flt.ftype.written && staleVoice.flt.cutoff.written && staleVoice.flt.res.written) = true := by
  decide

theorem wit_FilterCommands : base.hasVoice 0 voice0 ∧ filterTypeOf 2 = some .bandpass ∧
    isFinite .binary32 0 = true := by decide +kernel

theorem wit_VoiceOperandsAreChecked :
    (unitOf (.voice 1) = some 1 ∧ base.audioRuns ∧ base.audio.voices.length ≤ (1 : Byte).toNat) ∧
    (unitOf (.envrel 0 0x7F800000) = some 0 ∧ (0 : Byte).toNat < base.audio.voices.length ∧
      realOf (.envrel 0 0x7F800000) = some 0x7F800000 ∧ isFinite .binary32 0x7F800000 = false) := by decide +kernel

/-- The three parts of the chain succeed. -/
theorem wit_VoiceIsTheChain : (withVoice0 chainVoice).hasVoice 0 chainVoice ∧
    ∃ x o w y fl e,
      chainVoice.osc.next (withVoice0 chainVoice).cfg (drawNoise .binary32 (withVoice0 chainVoice).audio.draws) =
        .ok (x, o, w) ∧
      isFinite .binary32 x = true ∧ chainVoice.flt.process (withVoice0 chainVoice).cfg x = .ok (y, fl) ∧
      chainVoice.env.next (withVoice0 chainVoice).cfg = .ok e :=
  ⟨by decide, 0x3F800000, { chainVoice.osc with inc := 0x3E800000, phase := 0x3E800000 }, false, 0x3E800000,
    { chainVoice.flt with x1 := 0x3F800000, y1 := 0x3E800000 }, { chainVoice.env with value := 0x3F000000 },
    by rfl, by decide +kernel, by rfl, by rfl⟩

/-- Each part can fail where the parts before it succeed. -/
theorem wit_VoiceIsTheChain_faults :
    (voice0.osc.next base.cfg (drawNoise .binary32 base.audio.draws) = .error .uninit) ∧
    (voice0.flt.process base.cfg 0x3F800000 = .error .uninit) ∧
    (({ voice0.env with stage := .attack } : Env).next base.cfg = .error .uninit) := ⟨rfl, rfl, rfl⟩

theorem wit_FillWindow : ((filling 4).fillOpen ∧ (3 : BitVec 16) < (filling 4).audio.fillN ∧
      (filling 4).audio.fillN ≤ (4 : BitVec 16)) ∧
    (base.audioRuns ∧ ¬(base.cfg.audioMode = .inline ∧ base.audio.fillActive = true)) ∧
    ((buffered false).audioRuns ∧
      ¬((buffered false).cfg.audioMode = .inline ∧ (buffered false).audio.fillActive = true)) := by decide

theorem wit_BackArrayHandoff : ((buffered false).audioRuns ∧ (buffered false).cfg.audioMode = .buffered ∧
      (buffered false).audio.aready = false ∧ (3 : BitVec 16).toNat < (buffered false).cfg.abufSize ∧
      (buffered false).cfg.abufSize ≤ (4 : BitVec 16).toNat) ∧
    ((buffered true).audioRuns ∧ (buffered true).audio.aready = true) ∧
    (base.audioRuns ∧ base.cfg.audioMode = .inline) := by decide

theorem wit_PullIsAnswered : (base.audioRuns ∧ (4 : BitVec 16).toNat ≤ base.cfg.abufSize ∧
      base.cfg.audioMode = .inline ∧ base.audio.fillActive = false) ∧
    ((buffered true).audioRuns ∧ (buffered true).cfg.audioMode = .buffered ∧ (buffered true).audio.aready = true) ∧
    ((buffered false).audioRuns ∧ (buffered false).audio.aready = false ∧
      (0 : BitVec 16).toNat ≤ (buffered false).cfg.abufSize) := by decide

/-- A block with no audio domain, in reset. -/
def silent : State := { State.resetIn { Config.vectors with sr := 0, nvoice := 4 } with inReset := true }

/-- R12: no audio state, no ACMD, no PULL, no level output; the release of reset makes none. -/
theorem test_no_audio_domain : silent.audio = .absent 0 [] ∧ silent.afaultOut = none ∧
    (after (step (moving silent (.reset false)))).map (fun s => s.audio) = some (.absent 0 []) ∧
    (∀ m ∈ [Move.acmd 7, .pull 0, .takeArsp],
      (match step (moving silent m) with | .refused .audioAbsent => true | _ => false) = true) := by
  decide +kernel

theorem wit_NoMoveStops :
    (silent.cfg.sr = 0 ∧ (moving silent (.pull 0)).nextMove.1 = .pull 0 ∧
      (moving silent (.acmd 7)).nextMove.1 = .acmd 7 ∧ (moving silent .takeArsp).nextMove.1 = .takeArsp) ∧
    ((moving base (.tick 1)).nextMove.1 = .tick 1 ∧
      2 ^ 64 ≤ (0xFFFFFFFFFFFFFFFF : BitVec 64).toNat + (1 : BitVec 64).toNat) ∧
    (base.cfg.sr ≠ 0 ∧ base.cfg.abufSize < (5 : BitVec 16).toNat) ∧
    ((filling 0).audioRuns ∧ (4 : BitVec 16).toNat ≤ (filling 0).cfg.abufSize ∧
      (filling 0).cfg.audioMode = .inline ∧ (filling 0).audio.fillActive = true) := by decide

theorem wit_ArithmeticRoundsToNearest :
    isFinite .binary32 0x3F800000 = true ∧ isFinite .binary32 0x33800001 = true ∧
    isFinite .binary32 (fadd .binary32 0x3F800000 0x33800001) = true ∧
    isFinite .binary32 (fsub .binary32 0x3F800000 0x33800001) = true ∧
    isFinite .binary32 (fmul .binary32 0x3F800000 0x33800001) = true ∧
    isFinite .binary32 (fdiv .binary32 0x3F800000 0x40400000) = true ∧
    exactValue .binary32 0x40400000 ≠ 0 := by decide +kernel

/-- A tie: 1 + 2^-24 is as near to 1, whose significand is even, as to the next value. -/
theorem wit_ArithmeticRoundsToNearest_tie :
    isFinite .binary32 0x33800000 = true ∧ isFinite .binary32 0x3F800001 = true ∧
    fadd .binary32 0x3F800000 0x33800000 = 0x3F800000 ∧
    |exactValue .binary32 0x3F800000 - (exactValue .binary32 0x3F800000 + exactValue .binary32 0x33800000)| =
      |exactValue .binary32 0x3F800001 - (exactValue .binary32 0x3F800000 + exactValue .binary32 0x33800000)| ∧
    exactValue .binary32 0x3F800001 ≠ exactValue .binary32 0x3F800000 := by decide +kernel

/-- The largest finite value and half a unit in its last place is an infinity; what is added is one less in its
last place, and it stays the largest finite value. -/
theorem wit_ArithmeticRoundsToNearest_overflow :
    (twiceOverflow .binary32 ≤ 2 * |exactValue .binary32 0xFF7FFFFF + exactValue .binary32 0xF3000000| ∧
      fadd .binary32 0xFF7FFFFF 0xF3000000 = 0xFF800000) ∧
    (2 * |exactValue .binary32 0x7F7FFFFF + exactValue .binary32 0x72FFFFFF| < twiceOverflow .binary32 ∧
      fadd .binary32 0x7F7FFFFF 0x72FFFFFF = 0x7F7FFFFF) ∧
    (2 * |exactValue .binary64 0x7FEFFFFFFFFFFFFF + exactValue .binary64 0x7C8FFFFFFFFFFFFF| <
        twiceOverflow .binary64 ∧
      fadd .binary64 0x7FEFFFFFFFFFFFFF 0x7C8FFFFFFFFFFFFF = 0x7FEFFFFFFFFFFFFF) ∧
    fadd .binary64 0x7FEFFFFFFFFFFFFF 0x7C90000000000000 = 0x7FF0000000000000 ∧
    fdiv .binary32 0x7F7FFFFF 0xBF800000 = 0xFF7FFFFF ∧ fdiv .binary32 0x7F7FFFFF 0xBF7FFFFF = 0xFF800000 := by
  decide +kernel

end Sys2Proof.Tests
end

section
/-! PROOFS of the statements on the scope of a step (`spec/00_scope.md`). One frame says it all: a step writes
the two domains and the level of `reset`, beside what taking the next move off the agenda wrote. -/

namespace Sys2Proof.Machine

/-! ### What a move can be -/

/-- A move that runs an instruction is a domain's turn or a PULL that is answered. -/
theorem State.move_run {s s' : State} {m : Move} {i : Instr} (h : s.move m = .run i s') :
    (m = .video ∧ s.videoTurn = .run i s') ∨ (m = .audio ∧ s.audioTurn = .run i s') ∨
    ∃ n, m = .pull n ∧ s.cfg.sr ≠ 0 ∧ s.inReset = false ∧ i = .pull n ∧ s' = s := by
  cases m with
  | video => exact .inl ⟨rfl, h⟩
  | audio => exact .inr (.inl ⟨rfl, h⟩)
  | pull n =>
    rcases State.audioInput_cases h with ⟨-, hg⟩ | ⟨hs, hg⟩
    · cases hg
    · split at hg
      · cases hg
      · next hr => cases hg; exact .inr (.inr ⟨n, rfl, hs, by simpa using hr, rfl, rfl⟩)
  | acmd | takeArsp => rcases State.audioInput_cases h with ⟨-, hg⟩ | ⟨-, hg⟩ <;> cases hg
  | tick n => simp only [State.move, State.tick] at h; split at h <;> cases h
  | vcmd | quitReq | presentReady | reset | takeVrsp => cases h

/-! ### The frame of a step -/

/-- The input `reset` writes its level and, on its release, the two domains (R330, R331). -/
theorem State.setReset_frame (s : State) (level : Bool) :
    ∃ v a r, s.setReset level = { s with video := v, audio := a, inReset := r } := by
  unfold State.setReset
  split
  · exact ⟨_, _, _, rfl⟩
  · split <;> exact ⟨_, _, _, rfl⟩

/-- What a move takes from a port before its instruction runs is in the two domains. -/
theorem State.move_run_frame {s s' : State} {m : Move} {i : Instr} (h : s.move m = .run i s') :
    ∃ v a, s' = { s with video := v, audio := a } := by
  rcases State.move_run h with ⟨-, hv⟩ | ⟨-, ha⟩ | ⟨n, -, -, -, -, rfl⟩
  · obtain ⟨-, -, ⟨-, rfl⟩ | ⟨-, rest, -, rfl⟩ | ⟨-, -, rfl⟩⟩ := State.videoTurn_run hv <;> exact ⟨_, _, rfl⟩
  · obtain ⟨-, -, -, rest, -, rfl⟩ := State.audioTurn_run ha
    exact ⟨_, _, rfl⟩
  · exact ⟨_, _, rfl⟩

/-- A move that runs no instruction writes the two domains and the level of `reset`. -/
theorem State.move_stay_frame {s t : State} {m : Move} (h : s.move m = .stay t) :
    ∃ v a r, t = { s with video := v, audio := a, inReset := r } := by
  cases m with
  | video =>
    rcases State.videoTurn_stay h with rfl | ⟨-, -, -, why, rest, -, rfl⟩ <;> exact ⟨_, _, _, rfl⟩
  | audio =>
    rcases State.audioTurn_stay h with rfl | ⟨-, -, -, why, rest, -, rfl⟩ <;> exact ⟨_, _, _, rfl⟩
  | acmd | takeArsp =>
    rcases State.audioInput_cases h with ⟨-, hg⟩ | ⟨-, hg⟩ <;> cases hg
    exact ⟨_, _, _, rfl⟩
  | pull n =>
    rcases State.audioInput_cases h with ⟨-, hg⟩ | ⟨-, hg⟩
    · cases hg
    · split at hg <;> cases hg
      exact ⟨_, _, _, rfl⟩
  | tick n =>
    simp only [State.move, State.tick] at h
    split at h <;> cases h
    exact ⟨_, _, _, rfl⟩
  | reset level => cases h; exact s.setReset_frame level
  | vcmd | quitReq | presentReady | takeVrsp => cases h; exact ⟨_, _, _, rfl⟩

/-- An instruction writes the two domains only (R20). -/
theorem exec_frame {i : Instr} {s t : State} (h : exec i s = .next t) :
    ∃ v a, t = { s with video := v, audio := a } := by
  cases hp : i.port with
  | vcmd | seq =>
    obtain ⟨v, rfl⟩ := exec_video_frame (by simp [hp]) h
    exact ⟨_, _, rfl⟩
  | acmd | sig =>
    obtain ⟨a, rfl⟩ := exec_audio_frame (by simp [hp]) h
    exact ⟨_, _, rfl⟩

/-- A step writes, of the state its move was taken from, the two domains and the level of `reset`: no
parameter (R10), no move to come and no turn. -/
theorem step_frame {s t : State} (h : step s = .next t) :
    ∃ v a r, t = { s.nextMove.2 with video := v, audio := a, inReset := r } := by
  rcases step_cases h with hf | ⟨i, s', hf, he⟩
  · exact State.move_stay_frame hf
  · obtain ⟨v, a, rfl⟩ := State.move_run_frame hf
    obtain ⟨v', a', rfl⟩ := exec_frame he
    exact ⟨_, _, _, rfl⟩

end Sys2Proof.Machine

namespace Sys2Proof.Proofs

open Sys2Proof Sys2Proof.Machine

/-- Settles O9: the frame of a step leaves the parameters as the state of the next move has them, and taking a
move off the agenda changes none. -/
theorem configurationIsFixed : Obligations.ConfigurationIsFixed := by
  intro s t h
  obtain ⟨v, a, r, rfl⟩ := step_frame h
  exact s.nextMove_cfg

end Sys2Proof.Proofs
end

section
/-! PROOFS of the statements on the state (`spec/10_state.md`). Reset: one lemma per domain, for every level of its
inputs. Roles: one inversion lemma says what a step can make of the three role bits. The two domains: replacing
the domain that is not the move's own commutes with the step. -/

namespace Sys2Proof.Machine

/-! ### The reset values (R62) -/

/-- A free value has its property where the default has it. -/
theorem within_holds {ok : FReal → Bool} (raw : FReal) {dflt : FReal} (h : ok dflt = true) :
    ok (within ok raw dflt) = true := by
  unfold within
  split
  · assumption
  · exact h

theorem inUnit_fzero (f : Fmt) : inUnit f fzero = true := by cases f <;> decide +kernel

/-- A noise draw is a value of [-1, 1] (R206). -/
theorem inUnit_drawNoise (f : Fmt) (k : Nat) : inUnit f (drawNoise f k) = true :=
  within_holds _ (inUnit_fzero f)

theorem Voice.reset_atReset (f : Fmt) (k : Nat) : (Voice.reset f k).atReset f := by
  simp [Voice.atReset, Voice.reset, Osc.reset, Env.reset, Filter.reset, Param.unwritten, inUnit_drawNoise]

theorem VideoState.resetWith_atReset (now : BitVec 64) (ready : Bool) (es : List VEvent) :
    (VideoState.resetWith now ready es).atReset := by
  simp [VideoState.atReset, VideoState.resetWith, RGB.black, FaultLatch.clear]

/-- With `SR = 0` there is nothing to reset (R12); else every voice is at its reset values, whatever its draw. -/
theorem AudioState.resetWith_atReset (c : Config) (draws : Nat) (es : List AEvent) :
    (AudioState.resetWith c draws es).atReset c := by
  by_cases hs : c.sr = 0
  · rw [resetWith_absent hs]
    simp [atReset, absent, hs, FaultLatch.clear]
  · rw [resetWith_present hs]
    have hv : ∀ vc ∈ (present c draws es).voices, vc.atReset c.fmt := by
      intro vc hvc
      obtain ⟨v, -, rfl⟩ := List.mem_map.mp hvc
      exact Voice.reset_atReset c.fmt (draws + v)
    exact ⟨by simp [present, hs], hv, by simp [present], rfl, rfl, rfl, rfl, rfl, rfl, rfl⟩

end Sys2Proof.Machine

namespace Sys2Proof

/-! ### The rows of one port's table (R111) -/

/-- The row reads packets of one port only. -/
def Row.OnlyPort (p : Port) (r : Row) : Prop :=
  ∀ (f : Fmt) (h : Word) (ops : List Word) (i : Instr), r.build f h ops = some i → i.port = p

section Rows

variable {p : Port} {mask pat : Word}

theorem onlyPort_row0 {k : Word → Instr} (hk : ∀ h, (k h).port = p) : (row0 mask pat k).OnlyPort p := by
  intro f h ops i hb
  simp only [row0] at hb
  split at hb <;> cases hb
  exact hk h

theorem onlyPort_row1 {k : Word → Word → Option Instr} (hk : ∀ h a i, k h a = some i → i.port = p) :
    (row1 mask pat k).OnlyPort p := by
  intro f h ops i hb
  simp only [row1] at hb
  split at hb
  · exact hk _ _ _ hb
  · cases hb

theorem onlyPort_row2 {k : Word → Word → Word → Option Instr} (hk : ∀ h a b i, k h a b = some i → i.port = p) :
    (row2 mask pat k).OnlyPort p := by
  intro f h ops i hb
  simp only [row2] at hb
  split at hb
  · exact hk _ _ _ _ hb
  · cases hb

theorem onlyPort_row3 {k : Word → Word → Word → Word → Option Instr}
    (hk : ∀ h a b c i, k h a b c = some i → i.port = p) : (row3 mask pat k).OnlyPort p := by
  intro f h ops i hb
  simp only [row3] at hb
  split at hb
  · exact hk _ _ _ _ _ hb
  · cases hb

theorem onlyPort_rowR {k : Word → FReal → Instr} (hk : ∀ h r, (k h r).port = p) :
    (rowR mask pat k).OnlyPort p := by
  intro f h ops i hb
  obtain ⟨r, -, rfl⟩ := Option.map_eq_some_iff.mp hb
  exact hk h r

theorem onlyPort_rowB {k : Word → Word → List Byte → Instr} (hk : ∀ h xy bs, (k h xy bs).port = p) :
    (rowB mask pat k).OnlyPort p := by
  intro f h ops i hb
  simp only [rowB] at hb
  split at hb
  · split at hb
    · obtain ⟨bs, -, rfl⟩ := Option.map_eq_some_iff.mp hb
      exact hk h _ bs
    · cases hb
  · cases hb

end Rows

/-- An operand that has to be read first leaves the port as it is. -/
theorem port_of_map {α : Type} {o : Option α} {k : α → Instr} {p : Port} {i : Instr} (hk : ∀ x, (k x).port = p)
    (h : o.map k = some i) : i.port = p := by
  obtain ⟨x, -, rfl⟩ := Option.map_eq_some_iff.mp h
  exact hk x

theorem vcmdRows_onlyPort : ∀ r ∈ vcmdRows, r.OnlyPort .vcmd := by
  have h0 {mask pat : Word} {k : Word → Instr} := @onlyPort_row0 .vcmd mask pat k
  simp only [vcmdRows, List.forall_mem_cons]
  exact ⟨onlyPort_row1 (by rintro h a i ⟨⟩; rfl), h0 fun _ => rfl,
    onlyPort_row2 fun _ _ _ _ => port_of_map fun _ => rfl, onlyPort_row2 fun _ _ _ _ => port_of_map fun _ => rfl,
    onlyPort_row2 (by rintro h a b i ⟨⟩; rfl), onlyPort_rowB fun _ _ _ => rfl, h0 fun _ => rfl,
    onlyPort_row1 fun _ _ _ => port_of_map fun _ => rfl, h0 fun _ => rfl,
    onlyPort_row3 (by intro h a b c i hi; split at hi <;> cases hi; rfl),
    onlyPort_row1 fun _ _ _ => port_of_map fun _ => rfl, h0 fun _ => rfl, h0 fun _ => rfl,
    h0 fun _ => rfl, h0 fun _ => rfl, List.forall_mem_nil _⟩

theorem acmdRows_onlyPort : ∀ r ∈ acmdRows, r.OnlyPort .acmd := by
  have h0 {mask pat : Word} {k : Word → Instr} := @onlyPort_row0 .acmd mask pat k
  have hr {mask pat : Word} {k : Word → FReal → Instr} := @onlyPort_rowR .acmd mask pat k
  have h1 {mask pat : Word} {k : Word → BitVec 16 → Instr} (hk : ∀ h n, (k h n).port = .acmd) :
      (row1 mask pat fun h a => (half? a).map (k h)).OnlyPort .acmd :=
    onlyPort_row1 fun h _ _ => port_of_map (hk h)
  simp only [acmdRows, List.forall_mem_cons]
  exact ⟨h0 fun _ => rfl, h0 fun _ => rfl, h0 fun _ => rfl, hr fun _ _ => rfl, hr fun _ _ => rfl, h0 fun _ => rfl,
    h0 fun _ => rfl, h0 fun _ => rfl, h0 fun _ => rfl, h0 fun _ => rfl,
    hr fun _ _ => rfl, hr fun _ _ => rfl, hr fun _ _ => rfl, hr fun _ _ => rfl, hr fun _ _ => rfl,
    h0 fun _ => rfl, h0 fun _ => rfl, hr fun _ _ => rfl, hr fun _ _ => rfl, h0 fun _ => rfl,
    h1 fun _ _ => rfl, h0 fun _ => rfl, h1 fun _ _ => rfl, h0 fun _ => rfl, List.forall_mem_nil _⟩

end Sys2Proof

namespace Sys2Proof.Machine

/-! ### Which port an instruction is fetched from (R111, R116) -/

theorem decodePort_onlyPort {rows : List Row} {p : Port} (hrows : ∀ r ∈ rows, r.OnlyPort p) {f : Fmt}
    {ws rest : List Word} {i : Instr} (hd : decodePort rows f ws = .packet i rest) : i.port = p := by
  obtain ⟨h, tl, r, k, -, hr, -, -, -, hb, -⟩ := decodePort_packet hd
  exact hrows r (findRow_mem hr) f h _ i hb

theorem decodeVideo_port {f : Fmt} {ws rest : List Word} {i : Instr} (hd : decodeVideo f ws = .packet i rest) :
    i.port = .vcmd := decodePort_onlyPort vcmdRows_onlyPort hd

theorem decodeAudio_port {f : Fmt} {ws rest : List Word} {i : Instr} (hd : decodeAudio f ws = .packet i rest) :
    i.port = .acmd := decodePort_onlyPort acmdRows_onlyPort hd

theorem Phase.ownStep_port {p : Phase} {i : Instr} (h : p.ownStep = some i) : i.port = .seq := by
  cases p <;> cases h <;> rfl

theorem Phase.wait_port {p : Phase} {i : Instr} (h : p.wait = some i) : i.port = .seq := by
  cases p <;> cases h <;> rfl

/-- Whatever runs says where it was fetched from: a VCMD packet from VCMD, a sequencer step with nothing taken,
an ACMD packet from ACMD, PULL by its own signal. -/
theorem State.move_run_port {s s' : State} {m : Move} {i : Instr} (h : s.move m = .run i s') :
    (i.port = .vcmd ∧ m = .video ∧ ∃ rest, decodeVideo s.cfg.fmt s.video.vcmd = .packet i rest ∧
      s' = { s with video := { s.video with vcmd := rest } }) ∨
    (i.port = .seq ∧ m = .video ∧ s' = s) ∨
    (i.port = .acmd ∧ m = .audio ∧ ∃ rest, decodeAudio s.cfg.fmt s.audio.acmd = .packet i rest ∧
      s' = { s with audio := { s.audio with acmd := rest } }) ∨
    (i.port = .sig ∧ s' = s ∧ ∃ n, m = .pull n ∧ i = .pull n) := by
  rcases State.move_run h with ⟨hm, hv⟩ | ⟨hm, ha⟩ | ⟨n, hm, -, -, hi, hs⟩
  · obtain ⟨-, -, ⟨ho, hs⟩ | ⟨-, rest, hd, hs⟩ | ⟨hw, -, hs⟩⟩ := State.videoTurn_run hv
    · exact .inr (.inl ⟨Phase.ownStep_port ho, hm, hs⟩)
    · exact .inl ⟨decodeVideo_port hd, hm, rest, hd, hs⟩
    · exact .inr (.inl ⟨Phase.wait_port hw, hm, hs⟩)
  · obtain ⟨-, -, -, rest, hd, hs⟩ := State.audioTurn_run ha
    exact .inr (.inr (.inl ⟨decodeAudio_port hd, hm, rest, hd, hs⟩))
  · exact .inr (.inr (.inr ⟨by rw [hi]; rfl, hs, n, hm, hi⟩))

theorem State.move_run_vcmd {s s' : State} {m : Move} {i : Instr} (h : s.move m = .run i s')
    (hp : i.port = .vcmd) : m = .video ∧ ∃ rest, decodeVideo s.cfg.fmt s.video.vcmd = .packet i rest ∧
      s' = { s with video := { s.video with vcmd := rest } } := by
  rcases State.move_run_port h with ⟨-, hr⟩ | ⟨hq, -⟩ | ⟨hq, -⟩ | ⟨hq, -⟩
  · exact hr
  all_goals simp [hp] at hq

theorem State.move_run_seq {s s' : State} {m : Move} {i : Instr} (h : s.move m = .run i s')
    (hp : i.port = .seq) : m = .video ∧ s' = s := by
  rcases State.move_run_port h with ⟨hq, -⟩ | ⟨-, hr⟩ | ⟨hq, -⟩ | ⟨hq, -⟩
  · simp [hp] at hq
  · exact hr
  all_goals simp [hp] at hq

theorem State.move_run_sig {s s' : State} {m : Move} {i : Instr} (h : s.move m = .run i s')
    (hp : i.port = .sig) : s' = s ∧ ∃ n, m = .pull n ∧ i = .pull n := by
  rcases State.move_run_port h with ⟨hq, -⟩ | ⟨hq, -⟩ | ⟨hq, -⟩ | ⟨-, hr⟩
  · simp [hp] at hq
  · simp [hp] at hq
  · simp [hp] at hq
  · exact hr

/-! ### The role bits (R50) -/

/-- The three role bits: `FBSEL`, `PALSEL`, `ASEL`. -/
def State.roles (s : State) : Bool × Bool × Bool := (s.video.fbsel, s.video.palsel, s.audio.asel)

/-- A VCMD packet whose pseudocode keeps the role bits keeps them, its faults too. -/
theorem videoCommand_roles {c : VClass} {s t : State} {body : VideoState → Except Cause VideoState}
    (hb : ∀ v, body s.video = .ok v → v.fbsel = s.video.fbsel ∧ v.palsel = s.video.palsel)
    (h : videoCommand c s body = .next t) : t.roles = s.roles := by
  rcases videoCommand_cases h with rfl | ⟨k, -, rfl⟩ | ⟨-, -, ⟨v, hv, rfl⟩ | ⟨k, -, rfl⟩⟩
  · rfl
  · rfl
  · simp [State.roles, hb v hv]
  · rfl

/-- The exchanges are accepted in STOPPED only (R176). -/
theorem Phase.right_exchange {p : Phase} (h : p.right .exchange = .accepted) : p = .stopped := by
  cases p <;> first | rfl | cases h

/-- A host's exchange packet changes no role bit, or the domain is stopped and its pseudocode has run. -/
theorem videoCommand_exchange {s t : State} {g : VideoState → VideoState}
    (h : videoCommand .exchange s (fun v => .ok (g v)) = .next t) :
    t.roles = s.roles ∨ (s.video.phase = .stopped ∧ t = { s with video := g s.video }) := by
  rcases videoCommand_cases h with rfl | ⟨k, -, rfl⟩ | ⟨-, hr, ⟨v, hv, rfl⟩ | ⟨k, hk, -⟩⟩
  · exact .inl rfl
  · exact .inl rfl
  · cases hv; exact .inr ⟨Phase.right_exchange hr, rfl⟩
  · cases hk

theorem seqStep_roles {p : Phase} {en : VideoState → Bool} {s t : State} {body : VideoState → VideoState}
    (hb : (body s.video).fbsel = s.video.fbsel ∧ (body s.video).palsel = s.video.palsel)
    (h : seqStep p en s body = .next t) : t.roles = s.roles := by
  rcases seqStep_cases h with rfl | ⟨-, -, -, rfl⟩
  · rfl
  · simp [State.roles, hb]

theorem audioCommand_roles {s t : State} {body : AudioState → Except Cause AudioState}
    (hb : ∀ a, body s.audio = .ok a → a.asel = s.audio.asel) (h : audioCommand s body = .next t) :
    t.roles = s.roles := by
  rcases audioCommand_cases h with rfl | ⟨-, -, ⟨a, ha, rfl⟩ | ⟨k, -, rfl⟩⟩
  · rfl
  · simp [State.roles, hb a ha]
  · simp [State.roles]

theorem voiceCommand_roles {v : Byte} {s t : State} {body : Voice → FReal → Except Cause VoiceResult}
    (h : voiceCommand v s body = .next t) : t.roles = s.roles := by
  rcases voiceCommand_cases h with rfl | ⟨-, -, ⟨-, rfl⟩ | ⟨vc, -, ⟨r, -, rfl⟩ | ⟨k, -, rfl⟩⟩⟩ <;> simp [State.roles]

/-- The adapter exchanges its arrays when the back one is ready (R268). -/
theorem AudioState.bufferedPull_asel (a : AudioState) (n : BitVec 16) :
    (a.bufferedPull n).asel = if a.aready then !a.asel else a.asel := by
  unfold bufferedPull
  split <;> simp [*]

theorem execPull_roles {n : BitVec 16} {s t : State} (h : execPull n s = .next t) :
    t.roles = s.roles ∨ (s.cfg.audioMode = .buffered ∧ s.audio.aready = true ∧
      t.roles = (s.video.fbsel, s.video.palsel, !s.audio.asel)) := by
  obtain ⟨-, -, ⟨-, rfl⟩ | ⟨-, -, -, rfl⟩ | ⟨-, hm, rfl⟩⟩ := execPull_cases h
  · exact .inl rfl
  · exact .inl rfl
  · cases hr : s.audio.aready
    · exact .inl (by simp [State.roles, AudioState.bufferedPull_asel, hr])
    · exact .inr ⟨hm, rfl, by simp [State.roles, AudioState.bufferedPull_asel, hr]⟩

/-- What an instruction can make of the role bits: nothing, or one of the three is exchanged, by the packet or
the step that is its exchange (R137, R156, R177, R178, R268). -/
theorem exec_roles {i : Instr} {s t : State} (h : exec i s = .next t) :
    t.roles = s.roles ∨
    (((i = .flip ∧ s.video.phase = .stopped) ∨ (i = .seqFlip ∧ s.video.phase = .flip)) ∧
      t.roles = (!s.video.fbsel, s.video.palsel, s.audio.asel)) ∨
    (((i = .commit ∧ s.video.phase = .stopped) ∨ (i = .seqCommit ∧ s.video.phase = .commit)) ∧
      t.roles = (s.video.fbsel, !s.video.palsel, s.audio.asel)) ∨
    ((∃ n, i = .pull n) ∧ s.cfg.audioMode = .buffered ∧ s.audio.aready = true ∧
      t.roles = (s.video.fbsel, s.video.palsel, !s.audio.asel)) := by
  unfold exec at h
  cases i with
  | flip => exact (videoCommand_exchange h).imp id fun ⟨hp, ht⟩ => .inl ⟨.inl ⟨rfl, hp⟩, by rw [ht]; rfl⟩
  | commit => exact (videoCommand_exchange h).imp id fun ⟨hp, ht⟩ => .inr (.inl ⟨.inl ⟨rfl, hp⟩, by rw [ht]; rfl⟩)
  | seqFlip =>
    rcases seqStep_cases h with rfl | ⟨-, hp, -, rfl⟩
    · exact .inl rfl
    · exact .inr (.inl ⟨.inr ⟨rfl, hp⟩, rfl⟩)
  | seqCommit =>
    rcases seqStep_cases h with rfl | ⟨-, hp, -, rfl⟩
    · exact .inl rfl
    · exact .inr (.inr (.inl ⟨.inr ⟨rfl, hp⟩, rfl⟩))
  | pull n => exact (execPull_roles h).imp id fun ht => .inr (.inr ⟨⟨n, rfl⟩, ht⟩)
  | clear | hline | vline | fillrect | palwr | palrd | pullf2b | hookret =>
    exact .inl (videoCommand_roles (by rintro v ⟨⟩; simp) h)
  | putpixel | blit | run | setgrad | rotpal =>
    refine .inl (videoCommand_roles (fun v hv => ?_) h)
    split at hv <;> cases hv
    simp
  | seqFramedraw | seqScanline | seqPresent => exact .inl (seqStep_roles ⟨rfl, rfl⟩ h)
  | seqPace => exact .inl (seqStep_roles (by simp) h)
  | spanwr | fillret | abufwr | abufrdy =>
    refine .inl (audioCommand_roles (fun a ha => ?_) h)
    repeat' split at ha
    all_goals cases ha
    all_goals simp
  | _ => exact .inl (voiceCommand_roles h)

/-- What a move takes from a port before its instruction runs is no role bit. -/
theorem State.move_run_roles {s s' : State} {m : Move} {i : Instr} (h : s.move m = .run i s') :
    s'.roles = s.roles := by
  rcases State.move_run_port h with ⟨-, -, rest, -, rfl⟩ | ⟨-, -, rfl⟩ | ⟨-, -, rest, -, rfl⟩ | ⟨-, rfl, -⟩ <;> rfl

/-- A move that runs no instruction keeps the role bits, unless it is the release of `reset`. -/
theorem State.move_stay_roles {s t : State} {m : Move} (h : s.move m = .stay t)
    (hr : s.inReset = true → m ≠ .reset false) : t.roles = s.roles := by
  cases m with
  | video => rcases State.videoTurn_stay h with rfl | ⟨-, -, -, why, rest, -, rfl⟩ <;> rfl
  | audio => rcases State.audioTurn_stay h with rfl | ⟨-, -, -, why, rest, -, rfl⟩ <;> simp [roles]
  | acmd | takeArsp =>
    rcases State.audioInput_cases h with ⟨-, hg⟩ | ⟨-, hg⟩ <;> cases hg
    rfl
  | pull n =>
    rcases State.audioInput_cases h with ⟨-, hg⟩ | ⟨-, hg⟩
    · cases hg
    · split at hg <;> cases hg
      rfl
  | tick n =>
    simp only [State.move, State.tick] at h
    split at h <;> cases h
    rfl
  | reset level =>
    cases h
    cases level with
    | true => rfl
    | false =>
      have hn : s.inReset = false := by simpa using hr
      simp [setReset, hn]
  | vcmd | quitReq | presentReady | takeVrsp => cases h; rfl

/-- What a step can make of the role bits, the release of `reset` aside: nothing, or its owner exchanges one of
them (R50). -/
theorem step_roles {s t : State} (hr : s.releasesReset = false) (h : step s = .next t) :
    t.roles = s.roles ∨
    (t.roles = (!s.video.fbsel, s.video.palsel, s.audio.asel) ∧ s.nextMove.1 = .video ∧
      (s.video.phase = .flip ∨
        (s.video.phase = .stopped ∧ ∃ rest, decodeVideo s.cfg.fmt s.video.vcmd = .packet .flip rest))) ∨
    (t.roles = (s.video.fbsel, !s.video.palsel, s.audio.asel) ∧ s.nextMove.1 = .video ∧
      (s.video.phase = .commit ∨
        (s.video.phase = .stopped ∧ ∃ rest, decodeVideo s.cfg.fmt s.video.vcmd = .packet .commit rest))) ∨
    (t.roles = (s.video.fbsel, s.video.palsel, !s.audio.asel) ∧ (∃ n, s.nextMove.1 = .pull n) ∧
      s.cfg.audioMode = .buffered ∧ s.audio.aready = true) := by
  have hn : s.nextMove.2.roles = s.roles := by simp [State.roles]
  rcases step_cases h with hf | ⟨i, s', hf, he⟩
  · refine .inl ((State.move_stay_roles hf ?_).trans hn)
    intro hi hm
    simp [State.releasesReset, hm, (s.nextMove_inReset).symm.trans hi] at hr
  · rcases exec_roles he with ht | ⟨⟨rfl, hp⟩ | ⟨rfl, hp⟩, ht⟩ | ⟨⟨rfl, hp⟩ | ⟨rfl, hp⟩, ht⟩ | ⟨⟨n, rfl⟩, hm, ha, ht⟩
    · exact .inl (ht.trans ((State.move_run_roles hf).trans hn))
    · obtain ⟨hv, rest, hd, rfl⟩ := State.move_run_vcmd hf rfl
      exact .inr (.inl ⟨by simpa using ht, hv, .inr ⟨by simpa using hp, rest, by simpa using hd⟩⟩)
    · obtain ⟨hv, rfl⟩ := State.move_run_seq hf rfl
      exact .inr (.inl ⟨by simpa using ht, hv, .inl (by simpa using hp)⟩)
    · obtain ⟨hv, rest, hd, rfl⟩ := State.move_run_vcmd hf rfl
      exact .inr (.inr (.inl ⟨by simpa using ht, hv, .inr ⟨by simpa using hp, rest, by simpa using hd⟩⟩))
    · obtain ⟨hv, rfl⟩ := State.move_run_seq hf rfl
      exact .inr (.inr (.inl ⟨by simpa using ht, hv, .inl (by simpa using hp)⟩))
    · obtain ⟨rfl, k, hk, -⟩ := State.move_run_sig hf rfl
      exact .inr (.inr (.inr ⟨by simpa using ht, ⟨k, hk⟩, by simpa using hm, by simpa using ha⟩))

/-! ### Replacing one domain (R20) -/

def State.setVideo (v : VideoState) (s : State) : State := { s with video := v }

def State.setAudio (a : AudioState) (s : State) : State := { s with audio := a }

/-- What a move comes to, its state changed by `g`. -/
def Fetched.mapState (g : State → State) : Fetched → Fetched
  | .run i s => .run i (g s)
  | .stay s => .stay (g s)
  | .stop why => .stop why
  | .refuse why => .refuse why

/-- An outcome, its next state changed by `g`. -/
def mapNext (g : State → State) :
    Host.Outcome State Fault Refusal → Host.Outcome State Fault Refusal
  | .next s => .next (g s)
  | .fault why => .fault why
  | .refused why => .refused why

/-- A VCMD packet commutes with replacing the audio domain. -/
theorem videoCommand_setAudio (a : AudioState) (c : VClass) (s : State)
    (body : VideoState → Except Cause VideoState) :
    videoCommand c (s.setAudio a) body = mapNext (State.setAudio a) (videoCommand c s body) := by
  unfold videoCommand
  rw [apply_ite (mapNext _)]
  refine if_congr Iff.rfl rfl ?_
  simp only [State.setAudio]
  cases s.video.phase.right c <;> rfl

theorem seqStep_setAudio (a : AudioState) (p : Phase) (en : VideoState → Bool) (s : State)
    (body : VideoState → VideoState) :
    seqStep p en (s.setAudio a) body = mapNext (State.setAudio a) (seqStep p en s body) := by
  unfold seqStep
  rw [apply_ite (mapNext _)]
  rfl

/-- An ACMD packet commutes with replacing the video domain. -/
theorem audioCommand_setVideo (v : VideoState) (s : State) (body : AudioState → Except Cause AudioState) :
    audioCommand (s.setVideo v) body = mapNext (State.setVideo v) (audioCommand s body) := by
  simp only [audioCommand, apply_ite (mapNext _)]
  rfl

theorem voiceCommand_setVideo (v : VideoState) (u : Byte) (s : State)
    (body : Voice → FReal → Except Cause VoiceResult) :
    voiceCommand u (s.setVideo v) body = mapNext (State.setVideo v) (voiceCommand u s body) :=
  audioCommand_setVideo v s _

theorem execPull_setVideo (v : VideoState) (n : BitVec 16) (s : State) :
    execPull n (s.setVideo v) = mapNext (State.setVideo v) (execPull n s) := by
  simp only [execPull, apply_ite (mapNext _)]
  refine if_congr Iff.rfl rfl (if_congr Iff.rfl rfl (if_congr Iff.rfl rfl ?_))
  simp only [State.setVideo]
  cases s.cfg.audioMode with
  | inline =>
    simp only [apply_ite (mapNext _)]
    rfl
  | buffered => rfl

/-- A VCMD packet and a sequencer step read the configuration and the video domain only (R20). -/
theorem exec_setAudio {i : Instr} (hp : i.port = .vcmd ∨ i.port = .seq) (a : AudioState) (s : State) :
    exec i (s.setAudio a) = mapNext (State.setAudio a) (exec i s) := by
  unfold exec
  cases i with
  | putpixel | clear | hline | vline | fillrect | blit | flip | palwr | palrd | setgrad | rotpal | commit
  | pullf2b | run | hookret => exact videoCommand_setAudio a _ s _
  | seqFramedraw | seqScanline | seqFlip | seqCommit | seqPresent | seqPace => exact seqStep_setAudio a _ _ s _
  | _ => simp [Instr.port] at hp

/-- An ACMD packet and PULL read the configuration and the audio domain only (R20). -/
theorem exec_setVideo {i : Instr} (hp : i.port = .acmd ∨ i.port = .sig) (v : VideoState) (s : State) :
    exec i (s.setVideo v) = mapNext (State.setVideo v) (exec i s) := by
  unfold exec
  cases i with
  | oscnext | oscrst | oscnote | oscfreq | oscdet | oscwave | envnext | envon | envoff | envrst | envatk | envdec
  | envsus | envrel | fltproc | fltrst | flttype | fltcut | fltres | voice => exact voiceCommand_setVideo v _ s _
  | spanwr | fillret | abufwr | abufrdy => exact audioCommand_setVideo v s _
  | pull n => exact execPull_setVideo v n s
  | _ => simp [Instr.port] at hp

theorem State.videoTurn_setAudio (a : AudioState) (s : State) :
    (s.setAudio a).videoTurn = s.videoTurn.mapState (setAudio a) := by
  unfold videoTurn
  rw [apply_ite (Fetched.mapState _)]
  refine if_congr Iff.rfl rfl ?_
  simp only [setAudio]
  cases s.video.phase.ownStep with
  | some i => rfl
  | none =>
    cases decodeVideo s.cfg.fmt s.video.vcmd with
    | packet | illegal => rfl
    | short => cases s.video.phase.wait <;> rfl

theorem State.audioTurn_setVideo (v : VideoState) (s : State) :
    (s.setVideo v).audioTurn = s.audioTurn.mapState (setVideo v) := by
  unfold audioTurn
  rw [apply_ite (Fetched.mapState _)]
  refine if_congr Iff.rfl rfl ?_
  simp only [setVideo]
  cases decodeAudio s.cfg.fmt s.audio.acmd <;> rfl

/-- With `SR = 0` there is no audio domain to give the input to, whatever the video domain is (R12). -/
theorem State.audioInput_setVideo (v : VideoState) (s : State) (f : Fetched) :
    (s.setVideo v).audioInput (f.mapState (setVideo v)) = (s.audioInput f).mapState (setVideo v) := by
  unfold audioInput
  rw [apply_ite (Fetched.mapState _)]
  rfl

theorem State.tick_setAudio (a : AudioState) (s : State) (n : BitVec 64) :
    (s.setAudio a).tick n = (s.tick n).mapState (setAudio a) := by
  unfold tick
  rw [apply_ite (Fetched.mapState _)]
  rfl

/-- A move of the video domain commutes with replacing the audio domain. -/
theorem State.move_setAudio {m : Move} (hm : m.ofVideo = true) (a : AudioState) (s : State) :
    (s.setAudio a).move m = (s.move m).mapState (setAudio a) := by
  cases m with
  | video => exact s.videoTurn_setAudio a
  | tick n => exact s.tick_setAudio a n
  | vcmd | quitReq | presentReady | takeVrsp => rfl
  | audio | acmd | pull | takeArsp | reset => cases hm

/-- A move of the audio domain commutes with replacing the video domain. -/
theorem State.move_setVideo {m : Move} (hm : m.ofAudio = true) (v : VideoState) (s : State) :
    (s.setVideo v).move m = (s.move m).mapState (setVideo v) := by
  cases m with
  | audio => exact s.audioTurn_setVideo v
  | acmd w => exact s.audioInput_setVideo v (.stay { s with audio := { s.audio with acmd := s.audio.acmd ++ [w] } })
  | takeArsp => exact s.audioInput_setVideo v (.stay { s with audio := { s.audio with arsp := s.audio.arsp.tail } })
  | pull n =>
    have hr : (if s.inReset then Fetched.stay (s.setVideo v) else .run (.pull n) (s.setVideo v)) =
        (if s.inReset then Fetched.stay s else .run (.pull n) s).mapState (setVideo v) := by split <;> rfl
    exact (congrArg _ hr).trans (s.audioInput_setVideo v _)
  | video | vcmd | quitReq | presentReady | tick | takeVrsp | reset => cases hm

/-- A move of the video domain runs a VCMD packet or a sequencer step only. -/
theorem State.move_run_ofVideo {s s' : State} {m : Move} {i : Instr} (hm : m.ofVideo = true)
    (h : s.move m = .run i s') : i.port = .vcmd ∨ i.port = .seq := by
  rcases State.move_run_port h with ⟨hp, -⟩ | ⟨hp, -⟩ | ⟨-, rfl, -⟩ | ⟨-, -, n, rfl, -⟩
  · exact .inl hp
  · exact .inr hp
  · cases hm
  · cases hm

/-- A move of the audio domain runs an ACMD packet or PULL only. -/
theorem State.move_run_ofAudio {s s' : State} {m : Move} {i : Instr} (hm : m.ofAudio = true)
    (h : s.move m = .run i s') : i.port = .acmd ∨ i.port = .sig := by
  rcases State.move_run_port h with ⟨-, rfl, -⟩ | ⟨-, rfl, -⟩ | ⟨hp, -⟩ | ⟨hp, -⟩
  · cases hm
  · cases hm
  · exact .inl hp
  · exact .inr hp

/-- A step commutes with a change of the state that its move and its instruction commute with. -/
theorem step_comm {g : State → State} {s : State} (hf : (g s).fetch = s.fetch.mapState g)
    (he : ∀ i s', s.fetch = .run i s' → exec i (g s') = mapNext g (exec i s')) :
    step (g s) = mapNext g (step s) := by
  unfold step
  rw [hf]
  cases hs : s.fetch with
  | run i s' => exact he i s' hs
  | stay | stop | refuse => rfl

/-- A step of the video domain commutes with replacing the audio domain (R20). -/
theorem step_setAudio {s : State} (hm : s.nextMove.1.ofVideo = true) (a : AudioState) :
    step (s.setAudio a) = mapNext (State.setAudio a) (step s) := by
  refine step_comm ?_ fun i s' hf => exec_setAudio (State.move_run_ofVideo hm hf) a s'
  unfold State.fetch
  have hn : (s.setAudio a).nextMove = (s.nextMove.1, s.nextMove.2.setAudio a) := s.nextMove_setAudio a
  rw [hn]
  exact State.move_setAudio hm a _

/-- A step of the audio domain commutes with replacing the video domain (R20). -/
theorem step_setVideo {s : State} (hm : s.nextMove.1.ofAudio = true) (v : VideoState) :
    step (s.setVideo v) = mapNext (State.setVideo v) (step s) := by
  refine step_comm ?_ fun i s' hf => exec_setVideo (State.move_run_ofAudio hm hf) v s'
  unfold State.fetch
  have hn : (s.setVideo v).nextMove = (s.nextMove.1, s.nextMove.2.setVideo v) := s.nextMove_setVideo v
  rw [hn]
  exact State.move_setVideo hm v _

/-- With any audio domain in its place, a step of the video domain comes to the same video domain. -/
theorem step_setAudio_next {s t : State} (hm : s.nextMove.1.ofVideo = true) (h : step s = .next t)
    (a : AudioState) : step (s.setAudio a) = .next (t.setAudio a) := by
  rw [step_setAudio hm, h]
  rfl

/-- With any video domain in its place, a step of the audio domain comes to the same audio domain. -/
theorem step_setVideo_next {s t : State} (hm : s.nextMove.1.ofAudio = true) (h : step s = .next t)
    (v : VideoState) : step (s.setVideo v) = .next (t.setVideo v) := by
  rw [step_setVideo hm, h]
  rfl

end Sys2Proof.Machine

namespace Sys2Proof.Proofs

open Sys2Proof Sys2Proof.Machine

/-- Settles O10: both domains' reset values, for the inputs as they are right after reset. -/
theorem resetValues : Obligations.ResetValues := by
  intro c
  exact ⟨VideoState.resetWith_atReset 0 false [], AudioState.resetWith_atReset c 0 []⟩

/-- Settles O21: of the four things a step can make of the role bits, each clause's change leaves one. -/
theorem rolesChangeOnlyAtExchanges : Obligations.RolesChangeOnlyAtExchanges := by
  intro s t hr h
  rcases step_roles hr h with ht | ⟨ht, hx⟩ | ⟨ht, hx⟩ | ⟨ht, hx⟩ <;>
    obtain ⟨hfb, hpal, hab⟩ : _ ∧ _ ∧ _ := by simpa [State.roles] using ht
  · exact ⟨absurd hfb, absurd hpal, absurd hab⟩
  · exact ⟨fun _ => hx, absurd hpal, absurd hab⟩
  · exact ⟨absurd hfb, fun _ => hx, absurd hab⟩
  · exact ⟨absurd hfb, absurd hpal, fun _ => hx⟩

/-- Settles O22: a step commutes with replacing the other domain; replacing it by itself says it is not written. -/
theorem domainsShareNothing : Obligations.DomainsShareNothing := by
  intro s t h
  constructor
  · intro hm
    have hset := step_setAudio_next hm h
    have hkeep : t = t.setAudio s.audio := Host.Outcome.next.inj (h.symm.trans (hset s.audio))
    exact ⟨(congrArg State.audio hkeep :), hset⟩
  · intro hm
    have hset := step_setVideo_next hm h
    have hkeep : t = t.setVideo s.video := Host.Outcome.next.inj (h.symm.trans (hset s.video))
    exact ⟨(congrArg State.video hkeep :), hset⟩

end Sys2Proof.Proofs
end

section
/-! PROOFS of the statements on the memories and the scheduling of the domains (`spec/20_memory.md`). Fronts: no
write goes to an array that is front, said once for instructions and once for moves. Interleaving: both orders
come to the one state in which each domain has made its own move. -/

namespace Sys2Proof.Machine

/-! ### The front arrays (R85) -/

/-- What is front in `v` stands in `v'` where it stood, whatever the role bits of `v'` say. -/
structure VideoState.KeepsFronts (v v' : VideoState) : Prop where
  pixels : (if v.fbsel then v'.fb1 else v'.fb0) = v.fbFront
  entries : (if v.palsel then v'.pal1 else v'.pal0) = v.palFront

/-- What is front in `a` stands in `a'` where it stood. -/
def AudioState.KeepsFront (a a' : AudioState) : Prop := (if a.asel then a'.abuf1 else a'.abuf0) = a.abufFront

structure State.KeepsFronts (s t : State) : Prop where
  video : s.video.KeepsFronts t.video
  audio : s.audio.KeepsFront t.audio

/-- Where no memory is written, the fronts are not: the exchanges write role bits only (R17). -/
theorem VideoState.keepsFronts_of_eq {v v' : VideoState} (h0 : v'.fb0 = v.fb0) (h1 : v'.fb1 = v.fb1)
    (hp0 : v'.pal0 = v.pal0) (hp1 : v'.pal1 = v.pal1) : v.KeepsFronts v' :=
  ⟨by rw [h0, h1]; rfl, by rw [hp0, hp1]; rfl⟩

theorem AudioState.keepsFront_of_eq {a a' : AudioState} (h0 : a'.abuf0 = a.abuf0) (h1 : a'.abuf1 = a.abuf1) :
    a.KeepsFront a' := by
  rw [KeepsFront, h0, h1]
  rfl

theorem VideoState.keepsFronts_setFbBack (v : VideoState) (m : List Host.Cell) :
    v.KeepsFronts (v.setFbBack m) where
  pixels := by simpa [fbFront] using v.fbFront_setFbBack m
  entries := by simp [palFront]

theorem VideoState.keepsFronts_setPalBack (v : VideoState) (m : List (Nat × RGB)) :
    v.KeepsFronts (v.setPalBack m) where
  pixels := by simp [fbFront]
  entries := by simpa [palFront] using v.palFront_setPalBack m

theorem AudioState.keepsFront_setAbufBack (a : AudioState) (m : List (Nat × Sample)) :
    a.KeepsFront (a.setAbufBack m) := by
  simpa [KeepsFront, abufFront] using a.abufFront_setAbufBack m

theorem State.keepsFronts_refl (s : State) : s.KeepsFronts s := ⟨⟨rfl, rfl⟩, rfl⟩

/-- The adapter reads the array that it has made front and writes no array (R268). -/
theorem AudioState.keepsFront_bufferedPull (a : AudioState) (n : BitVec 16) : a.KeepsFront (a.bufferedPull n) := by
  unfold bufferedPull
  split <;> exact keepsFront_of_eq rfl rfl

/-! ### No instruction writes a front array -/

theorem videoCommand_keepsFronts {c : VClass} {s t : State} {body : VideoState → Except Cause VideoState}
    (hb : ∀ v, body s.video = .ok v → s.video.KeepsFronts v) (h : videoCommand c s body = .next t) :
    s.KeepsFronts t := by
  rcases videoCommand_cases h with rfl | ⟨k, -, rfl⟩ | ⟨-, -, ⟨v, hv, rfl⟩ | ⟨k, -, rfl⟩⟩
  · exact t.keepsFronts_refl
  · exact ⟨⟨rfl, rfl⟩, rfl⟩
  · exact ⟨hb v hv, rfl⟩
  · exact ⟨⟨rfl, rfl⟩, rfl⟩

theorem seqStep_keepsFronts {p : Phase} {en : VideoState → Bool} {s t : State} {body : VideoState → VideoState}
    (hb : s.video.KeepsFronts (body s.video)) (h : seqStep p en s body = .next t) : s.KeepsFronts t := by
  rcases seqStep_cases h with rfl | ⟨-, -, -, rfl⟩
  · exact t.keepsFronts_refl
  · exact ⟨hb, rfl⟩

/-- A fault of the audio domain closes the window on the span; it writes no array (R270, R292). -/
theorem AudioState.keepsFront_raise (a : AudioState) (k : Cause) : a.KeepsFront (a.raise k) :=
  keepsFront_of_eq (a.raise_abuf0 k) (a.raise_abuf1 k)

theorem audioCommand_keepsFronts {s t : State} {body : AudioState → Except Cause AudioState}
    (hb : ∀ a, body s.audio = .ok a → s.audio.KeepsFront a) (h : audioCommand s body = .next t) :
    s.KeepsFronts t := by
  rcases audioCommand_cases h with rfl | ⟨-, -, ⟨a, ha, rfl⟩ | ⟨k, -, rfl⟩⟩
  · exact t.keepsFronts_refl
  · exact ⟨⟨rfl, rfl⟩, hb a ha⟩
  · exact ⟨⟨rfl, rfl⟩, s.audio.keepsFront_raise k⟩

theorem voiceCommand_keepsFronts {u : Byte} {s t : State} {body : Voice → FReal → Except Cause VoiceResult}
    (h : voiceCommand u s body = .next t) : s.KeepsFronts t := by
  rcases voiceCommand_cases h with rfl | ⟨-, -, ⟨-, rfl⟩ | ⟨vc, -, ⟨r, -, rfl⟩ | ⟨k, -, rfl⟩⟩⟩
  · exact t.keepsFronts_refl
  · exact ⟨⟨rfl, rfl⟩, s.audio.keepsFront_raise _⟩
  · exact ⟨⟨rfl, rfl⟩, AudioState.keepsFront_of_eq (by simp) (by simp)⟩
  · exact ⟨⟨rfl, rfl⟩, s.audio.keepsFront_raise k⟩

theorem execPull_keepsFronts {n : BitVec 16} {s t : State} (h : execPull n s = .next t) : s.KeepsFronts t := by
  obtain ⟨-, -, ⟨-, rfl⟩ | ⟨-, -, -, rfl⟩ | ⟨-, -, rfl⟩⟩ := execPull_cases h
  · exact ⟨⟨rfl, rfl⟩, rfl⟩
  · exact ⟨⟨rfl, rfl⟩, rfl⟩
  · exact ⟨⟨rfl, rfl⟩, s.audio.keepsFront_bufferedPull n⟩

/-- The drawing commands write the back framebuffer array, the palette commands the back table, ABUFWR the back
sample array; no other instruction writes an array or a table. -/
theorem exec_keepsFronts {i : Instr} {s t : State} (h : exec i s = .next t) : s.KeepsFronts t := by
  unfold exec at h
  cases i with
  | clear | hline | vline | fillrect =>
    exact videoCommand_keepsFronts (by rintro v ⟨⟩; exact s.video.keepsFronts_setFbBack _) h
  | putpixel | blit =>
    refine videoCommand_keepsFronts (fun v hv => ?_) h
    split at hv <;> cases hv
    exact s.video.keepsFronts_setFbBack _
  | palwr | pullf2b => exact videoCommand_keepsFronts (by rintro v ⟨⟩; exact s.video.keepsFronts_setPalBack _) h
  | setgrad | rotpal =>
    refine videoCommand_keepsFronts (fun v hv => ?_) h
    split at hv <;> cases hv
    exact s.video.keepsFronts_setPalBack _
  | flip | commit | palrd => exact videoCommand_keepsFronts (by rintro v ⟨⟩; exact ⟨rfl, rfl⟩) h
  | hookret =>
    exact videoCommand_keepsFronts (by rintro v ⟨⟩; apply VideoState.keepsFronts_of_eq <;> simp) h
  | run =>
    refine videoCommand_keepsFronts (fun v hv => ?_) h
    split at hv <;> cases hv
    apply VideoState.keepsFronts_of_eq <;> simp
  | seqFramedraw | seqScanline | seqFlip | seqCommit | seqPresent => exact seqStep_keepsFronts ⟨rfl, rfl⟩ h
  | seqPace => exact seqStep_keepsFronts (by apply VideoState.keepsFronts_of_eq <;> simp) h
  | abufwr =>
    refine audioCommand_keepsFronts (fun a ha => ?_) h
    repeat' split at ha
    all_goals cases ha
    exact s.audio.keepsFront_setAbufBack _
  | spanwr | fillret | abufrdy =>
    refine audioCommand_keepsFronts (fun a ha => ?_) h
    repeat' split at ha
    all_goals cases ha
    all_goals apply AudioState.keepsFront_of_eq <;> simp
  | pull n => exact execPull_keepsFronts h
  | _ => exact voiceCommand_keepsFronts h

/-! ### No step writes a front array, the release of `reset` aside -/

/-- A move that runs no instruction writes no array, unless it is the release of `reset`. -/
theorem State.move_stay_keepsFronts {s t : State} {m : Move} (h : s.move m = .stay t)
    (hr : s.inReset = true → m ≠ .reset false) : s.KeepsFronts t := by
  cases m with
  | video => rcases State.videoTurn_stay h with rfl | ⟨-, -, -, why, rest, -, rfl⟩ <;> exact ⟨⟨rfl, rfl⟩, rfl⟩
  | audio =>
    rcases State.audioTurn_stay h with rfl | ⟨-, -, -, why, rest, -, rfl⟩
    · exact t.keepsFronts_refl
    · exact ⟨⟨rfl, rfl⟩, AudioState.keepsFront_of_eq (by simp) (by simp)⟩
  | acmd | takeArsp =>
    rcases State.audioInput_cases h with ⟨-, hg⟩ | ⟨-, hg⟩ <;> cases hg
    exact ⟨⟨rfl, rfl⟩, rfl⟩
  | pull n =>
    rcases State.audioInput_cases h with ⟨-, hg⟩ | ⟨-, hg⟩
    · cases hg
    · split at hg <;> cases hg
      exact s.keepsFronts_refl
  | tick n =>
    simp only [State.move, State.tick] at h
    split at h <;> cases h
    exact ⟨⟨rfl, rfl⟩, rfl⟩
  | reset level =>
    cases h
    cases level with
    | true => exact ⟨⟨rfl, rfl⟩, rfl⟩
    | false =>
      have hn : s.inReset = false := by simpa using hr
      simpa [setReset, hn] using s.keepsFronts_refl
  | vcmd | quitReq | presentReady | takeVrsp => cases h; exact ⟨⟨rfl, rfl⟩, rfl⟩

/-- Taking the next move off the agenda writes no memory. -/
theorem State.keepsFronts_of_nextMove {s t : State} (h : s.nextMove.2.KeepsFronts t) : s.KeepsFronts t :=
  ⟨by simpa using h.video, by simpa using h.audio⟩

theorem step_keepsFronts {s t : State} (hr : s.releasesReset = false) (h : step s = .next t) :
    s.KeepsFronts t := by
  refine State.keepsFronts_of_nextMove ?_
  rcases step_cases h with hf | ⟨i, s', hf, he⟩
  · refine State.move_stay_keepsFronts hf fun hi hm => ?_
    simp [State.releasesReset, hm, s.nextMove_inReset.symm.trans hi] at hr
  · have hk : s'.KeepsFronts t := exec_keepsFronts he
    rcases State.move_run_port hf with ⟨-, -, rest, -, rfl⟩ | ⟨-, -, rfl⟩ | ⟨-, -, rest, -, rfl⟩ | ⟨-, rfl, -⟩
    · exact ⟨⟨hk.video.pixels, hk.video.entries⟩, hk.audio⟩
    · exact hk
    · exact ⟨hk.video, hk.audio⟩
    · exact hk

/-! ### Moves that come later (R18, R83) -/

/-- The state with more moves at the end of its agenda. -/
def State.later (ms : List Move) (s : State) : State := { s with agenda := s.agenda ++ ms }

theorem videoCommand_later (ms : List Move) (c : VClass) (s : State)
    (body : VideoState → Except Cause VideoState) :
    videoCommand c (s.later ms) body = mapNext (State.later ms) (videoCommand c s body) := by
  unfold videoCommand
  rw [apply_ite (mapNext _)]
  refine if_congr Iff.rfl rfl ?_
  simp only [State.later]
  cases s.video.phase.right c <;> rfl

theorem seqStep_later (ms : List Move) (p : Phase) (en : VideoState → Bool) (s : State)
    (body : VideoState → VideoState) :
    seqStep p en (s.later ms) body = mapNext (State.later ms) (seqStep p en s body) := by
  unfold seqStep
  rw [apply_ite (mapNext _)]
  rfl

theorem audioCommand_later (ms : List Move) (s : State) (body : AudioState → Except Cause AudioState) :
    audioCommand (s.later ms) body = mapNext (State.later ms) (audioCommand s body) := by
  simp only [audioCommand, apply_ite (mapNext _)]
  rfl

theorem voiceCommand_later (ms : List Move) (u : Byte) (s : State)
    (body : Voice → FReal → Except Cause VoiceResult) :
    voiceCommand u (s.later ms) body = mapNext (State.later ms) (voiceCommand u s body) :=
  audioCommand_later ms s _

theorem execPull_later (ms : List Move) (n : BitVec 16) (s : State) :
    execPull n (s.later ms) = mapNext (State.later ms) (execPull n s) := by
  simp only [execPull, apply_ite (mapNext _)]
  refine if_congr Iff.rfl rfl (if_congr Iff.rfl rfl (if_congr Iff.rfl rfl ?_))
  simp only [State.later]
  cases s.cfg.audioMode with
  | inline =>
    simp only [apply_ite (mapNext _)]
    rfl
  | buffered => rfl

/-- No instruction reads the agenda. -/
theorem exec_later (i : Instr) (ms : List Move) (s : State) :
    exec i (s.later ms) = mapNext (State.later ms) (exec i s) := by
  unfold exec
  cases i with
  | putpixel | clear | hline | vline | fillrect | blit | flip | palwr | palrd | setgrad | rotpal | commit
  | pullf2b | run | hookret => exact videoCommand_later ms _ s _
  | seqFramedraw | seqScanline | seqFlip | seqCommit | seqPresent | seqPace => exact seqStep_later ms _ _ s _
  | spanwr | fillret | abufwr | abufrdy => exact audioCommand_later ms s _
  | pull n => exact execPull_later ms n s
  | _ => exact voiceCommand_later ms _ s _

theorem State.videoTurn_later (ms : List Move) (s : State) :
    (s.later ms).videoTurn = s.videoTurn.mapState (later ms) := by
  unfold videoTurn
  rw [apply_ite (Fetched.mapState _)]
  refine if_congr Iff.rfl rfl ?_
  simp only [later]
  cases s.video.phase.ownStep with
  | some i => rfl
  | none =>
    cases decodeVideo s.cfg.fmt s.video.vcmd with
    | packet | illegal => rfl
    | short => cases s.video.phase.wait <;> rfl

theorem State.audioTurn_later (ms : List Move) (s : State) :
    (s.later ms).audioTurn = s.audioTurn.mapState (later ms) := by
  unfold audioTurn
  rw [apply_ite (Fetched.mapState _)]
  refine if_congr Iff.rfl rfl ?_
  simp only [later]
  cases decodeAudio s.cfg.fmt s.audio.acmd <;> rfl

theorem State.audioInput_later (ms : List Move) (s : State) (f : Fetched) :
    (s.later ms).audioInput (f.mapState (later ms)) = (s.audioInput f).mapState (later ms) := by
  unfold audioInput
  rw [apply_ite (Fetched.mapState _)]
  rfl

theorem State.setReset_later (ms : List Move) (s : State) (level : Bool) :
    (s.later ms).setReset level = (s.setReset level).later ms := by
  simp only [setReset, apply_ite (later ms)]
  rfl

/-- No move reads the agenda that it leaves. -/
theorem State.move_later (m : Move) (ms : List Move) (s : State) :
    (s.later ms).move m = (s.move m).mapState (later ms) := by
  cases m with
  | video => exact s.videoTurn_later ms
  | audio => exact s.audioTurn_later ms
  | acmd w => exact s.audioInput_later ms (.stay { s with audio := { s.audio with acmd := s.audio.acmd ++ [w] } })
  | takeArsp => exact s.audioInput_later ms (.stay { s with audio := { s.audio with arsp := s.audio.arsp.tail } })
  | pull n =>
    have hr : (if s.inReset then Fetched.stay (s.later ms) else .run (.pull n) (s.later ms)) =
        (if s.inReset then Fetched.stay s else .run (.pull n) s).mapState (later ms) := by split <;> rfl
    exact (congrArg _ hr).trans (s.audioInput_later ms _)
  | tick n =>
    simp only [move, tick, apply_ite (Fetched.mapState _)]
    rfl
  | reset level => exact congrArg Fetched.stay (s.setReset_later ms level)
  | vcmd | quitReq | presentReady | takeVrsp => rfl

theorem State.nextMove_later {s : State} (h : s.agenda ≠ []) (ms : List Move) :
    (s.later ms).nextMove = (s.nextMove.1, s.nextMove.2.later ms) := by
  obtain ⟨m, r, hr⟩ := List.exists_cons_of_ne_nil h
  simp [nextMove, later, hr]

/-- A step that has a move to make leaves the moves after it as they are and does not depend on them. -/
theorem step_later {s : State} (h : s.agenda ≠ []) (ms : List Move) :
    step (s.later ms) = mapNext (State.later ms) (step s) := by
  refine step_comm ?_ fun i s' _ => exec_later i ms s'
  rw [State.fetch, State.nextMove_later h]
  exact State.move_later _ ms _

/-! ### What a step of one domain writes (R20) -/

/-- A move of the video domain that runs no instruction writes that domain only. -/
theorem State.move_stay_ofVideo {s t : State} {m : Move} (hm : m.ofVideo = true) (h : s.move m = .stay t) :
    ∃ v, t = s.setVideo v := by
  cases m with
  | video => rcases State.videoTurn_stay h with rfl | ⟨-, -, -, why, rest, -, rfl⟩ <;> exact ⟨_, rfl⟩
  | tick n =>
    simp only [State.move, State.tick] at h
    split at h <;> cases h
    exact ⟨_, rfl⟩
  | vcmd | quitReq | presentReady | takeVrsp => cases h; exact ⟨_, rfl⟩
  | audio | acmd | pull | takeArsp | reset => cases hm

/-- A move of the audio domain that runs no instruction writes that domain only. -/
theorem State.move_stay_ofAudio {s t : State} {m : Move} (hm : m.ofAudio = true) (h : s.move m = .stay t) :
    ∃ a, t = s.setAudio a := by
  cases m with
  | audio => rcases State.audioTurn_stay h with rfl | ⟨-, -, -, why, rest, -, rfl⟩ <;> exact ⟨_, rfl⟩
  | acmd | takeArsp =>
    rcases State.audioInput_cases h with ⟨-, hg⟩ | ⟨-, hg⟩ <;> cases hg
    exact ⟨_, rfl⟩
  | pull n =>
    rcases State.audioInput_cases h with ⟨-, hg⟩ | ⟨-, hg⟩
    · cases hg
    · split at hg <;> cases hg
      exact ⟨_, rfl⟩
  | video | vcmd | quitReq | presentReady | tick | takeVrsp | reset => cases hm

/-- A step of the video domain writes that domain only, and not the level of `reset`. -/
theorem step_ofVideo_frame {s t : State} (hm : s.nextMove.1.ofVideo = true) (h : step s = .next t) :
    ∃ v, t = s.nextMove.2.setVideo v := by
  rcases step_cases h with hf | ⟨i, s', hf, he⟩
  · exact State.move_stay_ofVideo hm hf
  · obtain ⟨v, rfl⟩ := exec_video_frame (State.move_run_ofVideo hm hf) he
    rcases State.move_run_port hf with ⟨-, -, rest, -, rfl⟩ | ⟨-, -, rfl⟩ | ⟨-, ha, -⟩ | ⟨-, -, n, hp, -⟩
    · exact ⟨v, rfl⟩
    · exact ⟨v, rfl⟩
    · simp [ha, Move.ofVideo] at hm
    · simp [hp, Move.ofVideo] at hm

/-- A step of the audio domain writes that domain only, and not the level of `reset`. -/
theorem step_ofAudio_frame {s t : State} (hm : s.nextMove.1.ofAudio = true) (h : step s = .next t) :
    ∃ a, t = s.nextMove.2.setAudio a := by
  rcases step_cases h with hf | ⟨i, s', hf, he⟩
  · exact State.move_stay_ofAudio hm hf
  · obtain ⟨a, rfl⟩ := exec_audio_frame (State.move_run_ofAudio hm hf) he
    rcases State.move_run_port hf with ⟨-, hv, -⟩ | ⟨-, hv, -⟩ | ⟨-, -, rest, -, rfl⟩ | ⟨-, rfl, -⟩
    · simp [hv, Move.ofAudio] at hm
    · simp [hv, Move.ofAudio] at hm
    · exact ⟨a, rfl⟩
    · exact ⟨a, rfl⟩

/-! ### Two moves, one of each domain (R83) -/

def State.withAgenda (ms : List Move) (s : State) : State := { s with agenda := ms }

theorem mapNext_eq_next {g : State → State} {o : Host.Outcome State Fault Refusal} {u : State} :
    mapNext g o = .next u ↔ ∃ t, o = .next t ∧ g t = u := by
  cases o <;> simp [mapNext]

theorem run_two {s u : State} :
    Sys2Proof.core.run 2 s = .next u ↔ ∃ t, step s = .next t ∧ step t = .next u := by
  simp only [Host.Core.run, Sys2Proof.core]
  cases step s with
  | next t => cases ht : step t <;> simp [ht]
  | fault | refused => simp

/-- A step makes the first move of its agenda as it makes it alone. -/
theorem step_withAgenda (s : State) (m : Move) (ms : List Move) :
    step (s.withAgenda (m :: ms)) = mapNext (State.later ms) (step (s.withAgenda [m])) :=
  step_later (s := s.withAgenda [m]) (List.cons_ne_nil m []) ms

section TwoMoves

variable {s u : State} {m mv ma : Move} {ms : List Move}

theorem step_withAgenda_ofVideo (hv : mv.ofVideo = true) :
    step (s.withAgenda (mv :: ms)) = .next u ↔
      ∃ v, step (s.withAgenda [mv]) = .next ((s.withAgenda []).setVideo v) ∧ (s.withAgenda ms).setVideo v = u := by
  rw [step_withAgenda, mapNext_eq_next]
  constructor
  · rintro ⟨t, h, rfl⟩
    obtain ⟨v, rfl⟩ := step_ofVideo_frame (s := s.withAgenda [mv]) hv h
    exact ⟨v, h, rfl⟩
  · rintro ⟨v, h, rfl⟩
    exact ⟨_, h, rfl⟩

theorem step_withAgenda_ofAudio (ha : ma.ofAudio = true) :
    step (s.withAgenda (ma :: ms)) = .next u ↔
      ∃ a, step (s.withAgenda [ma]) = .next ((s.withAgenda []).setAudio a) ∧ (s.withAgenda ms).setAudio a = u := by
  rw [step_withAgenda, mapNext_eq_next]
  constructor
  · rintro ⟨t, h, rfl⟩
    obtain ⟨a, rfl⟩ := step_ofAudio_frame (s := s.withAgenda [ma]) ha h
    exact ⟨a, h, rfl⟩
  · rintro ⟨a, h, rfl⟩
    exact ⟨_, h, rfl⟩

theorem step_withAgenda_setAudio (hv : mv.ofVideo = true) (a : AudioState) :
    step ((s.withAgenda (mv :: ms)).setAudio a) = mapNext (State.setAudio a) (step (s.withAgenda (mv :: ms))) :=
  step_setAudio (s := s.withAgenda (mv :: ms)) hv a

theorem step_withAgenda_setVideo (ha : ma.ofAudio = true) (v : VideoState) :
    step ((s.withAgenda (ma :: ms)).setVideo v) = mapNext (State.setVideo v) (step (s.withAgenda (ma :: ms))) :=
  step_setVideo (s := s.withAgenda (ma :: ms)) ha v

/-- `u` is `s` with the video domain that `mv` alone makes of it, the audio domain that `ma` alone makes of it, and
the moves `ms` still to come. -/
def State.JoinsMoves (s : State) (mv ma : Move) (ms : List Move) (u : State) : Prop :=
  ∃ v a, step (s.withAgenda [mv]) = .next ((s.withAgenda []).setVideo v) ∧
    step (s.withAgenda [ma]) = .next ((s.withAgenda []).setAudio a) ∧
    ((s.withAgenda ms).setAudio a).setVideo v = u

theorem run_video_audio (hv : mv.ofVideo = true) (ha : ma.ofAudio = true) :
    Sys2Proof.core.run 2 (s.withAgenda (mv :: ma :: ms)) = .next u ↔ s.JoinsMoves mv ma ms u := by
  rw [run_two]
  constructor
  · rintro ⟨t, h1, h2⟩
    obtain ⟨v, hmv, rfl⟩ := (step_withAgenda_ofVideo hv).mp h1
    rw [step_withAgenda_setVideo ha, mapNext_eq_next] at h2
    obtain ⟨t, h2, rfl⟩ := h2
    obtain ⟨a, hma, rfl⟩ := (step_withAgenda_ofAudio ha).mp h2
    exact ⟨v, a, hmv, hma, rfl⟩
  · rintro ⟨v, a, hmv, hma, rfl⟩
    refine ⟨_, (step_withAgenda_ofVideo hv).mpr ⟨v, hmv, rfl⟩, ?_⟩
    rw [step_withAgenda_setVideo ha, (step_withAgenda_ofAudio ha).mpr ⟨a, hma, rfl⟩]
    rfl

theorem run_audio_video (hv : mv.ofVideo = true) (ha : ma.ofAudio = true) :
    Sys2Proof.core.run 2 (s.withAgenda (ma :: mv :: ms)) = .next u ↔ s.JoinsMoves mv ma ms u := by
  rw [run_two]
  constructor
  · rintro ⟨t, h1, h2⟩
    obtain ⟨a, hma, rfl⟩ := (step_withAgenda_ofAudio ha).mp h1
    rw [step_withAgenda_setAudio hv, mapNext_eq_next] at h2
    obtain ⟨t, h2, rfl⟩ := h2
    obtain ⟨v, hmv, rfl⟩ := (step_withAgenda_ofVideo hv).mp h2
    exact ⟨v, a, hmv, hma, rfl⟩
  · rintro ⟨v, a, hmv, hma, rfl⟩
    refine ⟨_, (step_withAgenda_ofAudio ha).mpr ⟨a, hma, rfl⟩, ?_⟩
    rw [step_withAgenda_setAudio hv, (step_withAgenda_ofVideo hv).mpr ⟨v, hmv, rfl⟩]
    rfl

end TwoMoves

end Sys2Proof.Machine

namespace Sys2Proof.Proofs

open Sys2Proof Sys2Proof.Machine

/-- Settles O20: the memories that are front before the step are kept as they are, so every element of them is,
and they are front after it too where the role bit stays. -/
theorem frontIsNeverWritten : Obligations.FrontIsNeverWritten := by
  intro s t hr h
  obtain ⟨⟨hfb, hpal⟩, hab⟩ := step_keepsFronts hr h
  refine ⟨fun o => congrArg (memRead 0 · o) hfb, fun i => congrArg (memRead RGB.black · i) hpal,
    fun i => congrArg (memRead 0 · i) hab, fun hsel o => ?_, fun hsel i => ?_⟩
  · rw [← hsel] at hfb
    exact congrArg (memRead 0 · o) hfb
  · rw [← hsel] at hpal
    exact congrArg (memRead RGB.black · i) hpal

/-- Settles O23: either order comes to the one state that joins what each move does alone. -/
theorem domainsCommute : Obligations.DomainsCommute := by
  intro s u mv ma rest hv ha
  exact (run_video_audio hv ha).trans (run_audio_video hv ha).symm

end Sys2Proof.Proofs
end

section
/-! PROOFS of the statements on the encoding (`spec/30_encoding.md`). Illegal packets: the opcodes of a port are
those of its rows, an illegal packet takes its header at least, and the domain's turn latches the fault. -/

namespace Sys2Proof.Machine

/-! ### What is no legal packet (R111, R113) -/

theorem findRow_eq_none_iff {rows : List Row} {h : Word} :
    findRow rows h = none ↔ hdrOpc h ∉ rows.map Row.opc := by
  simp [findRow, List.find?_eq_none]

theorem decodePort_unknownOpcode {rows : List Row} {f : Fmt} {h : Word} {ws : List Word}
    (hn : hdrOpc h ∉ rows.map Row.opc) :
    decodePort rows f (h :: ws) = .illegal (.unknownOpcode (hdrOpc h)) ws := by
  simp [decodePort, findRow_eq_none_iff.mpr hn]

theorem vcmdRows_opcodes : vcmdRows.map Row.opc = videoOpcodes := by decide

theorem acmdRows_opcodes : acmdRows.map Row.opc = audioOpcodes := by decide

theorem Row.decode_illegal {r : Row} {f : Fmt} {h : Word} {ops rest ws : List Word} {why : DecodeError}
    (hd : r.decode f h ops rest = .illegal why ws) : ws = rest := by
  unfold Row.decode at hd
  split at hd
  · split at hd <;> cases hd
    rfl
  · cases hd
    rfl

/-- An illegal packet takes its header, and may take words after it. -/
theorem decodePort_illegal {rows : List Row} {f : Fmt} {ws rest : List Word} {why : DecodeError}
    (hd : decodePort rows f ws = .illegal why rest) : ∃ h tl, ws = h :: tl ∧ rest <:+ tl := by
  cases ws with
  | nil => cases hd
  | cons h tl =>
    refine ⟨h, tl, rfl, ?_⟩
    simp only [decodePort] at hd
    split at hd
    · cases hd
      exact List.suffix_rfl
    · split at hd
      · cases hd
      · next k hk =>
        split at hd
        · cases hd
        · rw [Row.decode_illegal hd]
          exact List.drop_suffix k tl

/-- An illegal packet is taken from the front of the port, and is not empty. -/
theorem decodePort_illegal_suffix {rows : List Row} {f : Fmt} {ws rest : List Word} {why : DecodeError}
    (hd : decodePort rows f ws = .illegal why rest) : rest <:+ ws ∧ rest ≠ ws := by
  obtain ⟨h, tl, rfl, hs⟩ := decodePort_illegal hd
  refine ⟨hs.trans (List.suffix_cons h tl), ?_⟩
  rintro rfl
  simpa using hs.length_le

/-! ### The turn that finds an illegal packet (R291, R292) -/

theorem Phase.ownStep_eq_none {p : Phase} (h : p = .stopped ∨ p = .framedraw ∨ p = .scanline) :
    p.ownStep = none := by
  rcases h with rfl | rfl | rfl <;> rfl

theorem State.videoTurn_illegal {s : State} {why : DecodeError} {rest : List Word} (hr : s.inReset = false)
    (hp : s.canPaint) (hd : decodeVideo s.cfg.fmt s.video.vcmd = .illegal why rest) :
    s.videoTurn = .stay
      { s with video := { s.video with vcmd := rest, fault := ⟨true, Cause.illegal.code⟩ } } := by
  obtain ⟨hf, hphase⟩ := hp
  simp [videoTurn, hr, hf, Phase.ownStep_eq_none hphase, hd, VideoState.raise, FaultLatch.raise_clear hf]

/-- A fault neither reads nor writes the words waiting at ACMD. -/
theorem AudioState.raise_withAcmd (a : AudioState) (ws : List Word) (k : Cause) :
    ({ a with acmd := ws } : AudioState).raise k = { a.raise k with acmd := ws } := by
  cases hfill : a.fillActive <;> simp [raise, closeFill, hfill]

theorem State.audioTurn_illegal {s : State} {why : DecodeError} {rest : List Word} (hr : s.inReset = false)
    (ha : s.audioRuns) (hd : decodeAudio s.cfg.fmt s.audio.acmd = .illegal why rest) :
    s.audioTurn = .stay { s with audio := { s.audio.raise .illegal with acmd := rest } } := by
  obtain ⟨hsr, hf⟩ := ha
  simp [audioTurn, hr, hf, hsr, hd, AudioState.raise_withAcmd]

theorem State.audioFault_audio {s : State} (hf : s.audio.fault.valid = false) (k : Cause) :
    (s.audioFault k).audio = s.audio.raise k := by
  rw [← State.audioFault_eq hf]

theorem step_move_stay {s t : State} {m : Move} (hm : s.nextMove.1 = m) (h : s.nextMove.2.move m = .stay t) :
    step s = .next t :=
  step_stay (by rw [State.fetch, hm, h])

end Sys2Proof.Machine

namespace Sys2Proof.Proofs

open Sys2Proof Sys2Proof.Machine

/-- Settles O4: an opcode outside the port's list has no row, and the turn that reads an illegal packet stays with
the latch raised on the words after it. -/
theorem illegalPacketsFault : Obligations.IllegalPacketsFault := by
  refine ⟨fun f h ws => ⟨fun hn => ?_, fun hn => ?_⟩,
    fun s why rest hr => ⟨fun hm hp hd => ?_, fun hm ha hd => ?_⟩⟩
  · exact ⟨_, _, decodePort_unknownOpcode (by rwa [vcmdRows_opcodes])⟩
  · exact ⟨_, _, decodePort_unknownOpcode (by rwa [acmdRows_opcodes])⟩
  · obtain ⟨hs, hne⟩ := decodePort_illegal_suffix hd
    have ht := s.nextMove.2.videoTurn_illegal (why := why) (rest := rest) (by simpa)
      (by simpa [State.canPaint] using hp) (by simpa)
    exact ⟨hs, hne, by simpa using step_move_stay hm ht⟩
  · obtain ⟨hs, hne⟩ := decodePort_illegal_suffix hd
    have ht := s.nextMove.2.audioTurn_illegal (why := why) (rest := rest) (by simpa)
      (by simpa [State.audioRuns] using ha) (by simpa)
    exact ⟨hs, hne, by simpa [State.audioFault_audio ha.2] using step_move_stay hm ht⟩

end Sys2Proof.Proofs
end

section
/-! PROOFS of the statements on the framebuffer (`spec/40_framebuffer.md`). The phase accepts or refuses
a packet; an accepted one has one equation; a drawn shape is read pixel by pixel at the address `y * W + x`, and
each shape says which pixels it holds. -/

namespace Sys2Proof.Machine

/-! ### Which packets a phase takes (R176) -/

/-- A packet that the phase refuses by its column of R176 faults, whatever its operands. -/
theorem exec_refused {i : Instr} {c : VClass} {s : State} {k : Cause} (hc : vclassOf i = some c)
    (hf : s.video.fault.valid = false) (hr : s.video.phase.right c = .refused k) :
    exec i s = .next (s.videoFault k) := by
  unfold exec
  cases i with
  | putpixel | clear | hline | vline | fillrect | blit | flip | palwr | palrd | setgrad | rotpal | commit
  | pullf2b | run | hookret =>
    cases hc
    exact videoCommand_refused hf hr
  | _ => cases hc

theorem exec_framebuffer_inScanline {i : Instr} {s : State} (hc : vclassOf i = some .framebuffer)
    (h : s.inScanline) : exec i s = .next (s.videoFault .access) :=
  exec_refused hc h.1 (by rw [h.2]; rfl)

theorem exec_exchange_inVideoHook {i : Instr} {s : State} (hc : vclassOf i = some .exchange)
    (h : s.inVideoHook) : exec i s = .next (s.videoFault .ownership) :=
  exec_refused hc h.1 (by rcases h.2 with hp | hp <;> rw [hp] <;> rfl)

theorem State.canDraw_accepted {s : State} (h : s.canDraw) : s.video.phase.right .framebuffer = .accepted := by
  rcases h.2 with hp | hp <;> rw [hp] <;> rfl

theorem State.isStopped_accepted {s : State} (h : s.isStopped) : s.video.phase.right .exchange = .accepted := by
  rw [h.2]
  rfl

/-! ### What an accepted packet does (R131 to R137, R156) -/

section Accepted

variable {s : State}

theorem exec_putpixel_inside {x y : BitVec 16} (h : s.canDraw) (hin : inFrame s.cfg x.toInt y.toInt = true)
    (idx : Byte) :
    exec (.putpixel idx x y) s =
      .next { s with video := s.video.setPixel (pixelIndex s.cfg x.toInt y.toInt) idx } := by
  unfold exec
  exact videoCommand_ok h.1 (State.canDraw_accepted h) (if_pos hin)

theorem exec_putpixel_outside {x y : BitVec 16} (h : s.canDraw) (hout : ¬inFrame s.cfg x.toInt y.toInt = true)
    (idx : Byte) : exec (.putpixel idx x y) s = .next (s.videoFault .ubRange) := by
  unfold exec
  exact videoCommand_error h.1 (State.canDraw_accepted h) (if_neg hout)

theorem exec_clear (h : s.canDraw) (idx : Byte) :
    exec (.clear idx) s = .next { s with video := s.video.drawShape s.cfg fun _ _ => some idx } := by
  unfold exec
  exact videoCommand_ok h.1 (State.canDraw_accepted h) rfl

theorem exec_hline (h : s.canDraw) (idx : Byte) (x y len : BitVec 16) :
    exec (.hline idx x y len) s =
      .next { s with video := s.video.drawShape s.cfg (hlineShape idx x.toInt y.toInt len.toInt) } := by
  unfold exec
  exact videoCommand_ok h.1 (State.canDraw_accepted h) rfl

theorem exec_vline (h : s.canDraw) (idx : Byte) (x y len : BitVec 16) :
    exec (.vline idx x y len) s =
      .next { s with video := s.video.drawShape s.cfg (vlineShape idx x.toInt y.toInt len.toInt) } := by
  unfold exec
  exact videoCommand_ok h.1 (State.canDraw_accepted h) rfl

theorem exec_fillrect (h : s.canDraw) (idx : Byte) (x y w ht : BitVec 16) :
    exec (.fillrect idx x y w ht) s =
      .next { s with video := s.video.drawShape s.cfg (rectShape idx x.toInt y.toInt w.toInt ht.toInt) } := by
  unfold exec
  exact videoCommand_ok h.1 (State.canDraw_accepted h) rfl

theorem exec_blit {srcw : BitVec 16} (h : s.canDraw) (hw : srcw ≠ 0) (dx dy : BitVec 16) (bytes : List Byte) :
    exec (.blit srcw dx dy bytes) s =
      .next { s with video := s.video.drawShape s.cfg (blitShape srcw.toNat dx.toInt dy.toInt bytes) } := by
  unfold exec
  exact videoCommand_ok h.1 (State.canDraw_accepted h) (if_neg hw)

theorem exec_blit_noWidth {srcw : BitVec 16} (h : s.canDraw) (hw : srcw = 0) (dx dy : BitVec 16)
    (bytes : List Byte) : exec (.blit srcw dx dy bytes) s = .next (s.videoFault .badparam) := by
  unfold exec
  exact videoCommand_error h.1 (State.canDraw_accepted h) (if_pos hw)

theorem exec_flip (h : s.isStopped) : exec .flip s = .next { s with video := s.video.flipRoles } := by
  unfold exec
  exact videoCommand_ok h.1 (State.isStopped_accepted h) rfl

theorem exec_commit (h : s.isStopped) : exec .commit s = .next { s with video := s.video.commitRoles } := by
  unfold exec
  exact videoCommand_ok h.1 (State.isStopped_accepted h) rfl

end Accepted

/-! ### The frame of a write to the back array (R85) -/

theorem State.onlyBackPixels_setFbBack (s : State) (m : List Host.Cell) :
    s.onlyBackPixels { s with video := s.video.setFbBack m } := by
  refine ⟨?_, fun o => by simp [VideoState.shownPixel]⟩
  unfold VideoState.setFbBack
  split <;> rfl

/-! ### The pixel at a column and a row (R71) -/

theorem inFrame_iff {c : Config} {x y : Int} :
    inFrame c x y = true ↔ 0 ≤ x ∧ x < c.w ∧ 0 ≤ y ∧ y < c.h := by
  simp [inFrame]

theorem eq_pixelIndex_iff {c : Config} {x y : Int} (hx : 0 ≤ x) (hy : 0 ≤ y) (o : Nat) :
    o = pixelIndex c x y ↔ (o : Int) = y * c.w + x := by
  have : 0 ≤ y * (c.w : Int) := by positivity
  unfold pixelIndex
  omega

theorem pixelX_rowMajor {c : Config} {px : Nat} (hx : px < c.w) (py : Nat) :
    pixelX c (py * c.w + px) = px := by
  simp [pixelX, Nat.mod_eq_of_lt hx]

theorem pixelY_rowMajor {c : Config} {px : Nat} (hx : px < c.w) (py : Nat) :
    pixelY c (py * c.w + px) = py := by
  simp [pixelY, Nat.mul_comm py, Nat.mul_add_div (Nat.zero_lt_of_lt hx), Nat.div_eq_of_lt hx]

/-- A cell of a table of `rows` rows, each `width` wide, stands before the table's end. -/
theorem rowMajor_lt {width rows r k : Nat} (hk : k < width) (hr : r < rows) : r * width + k < rows * width :=
  calc r * width + k < r * width + width := Nat.add_lt_add_left hk _
    _ = (r + 1) * width := (Nat.succ_mul r width).symm
    _ ≤ rows * width := Nat.mul_le_mul_right width hr

/-- A drawn shape, read at a pixel of the framebuffer. -/
theorem VideoState.pixel_drawShape_rowMajor {c : Config} {px py : Nat} (hx : px < c.w) (hy : py < c.h)
    (v : VideoState) (shape : Int → Int → Option Byte) :
    (v.drawShape c shape).pixel (py * c.w + px) = (shape px py).getD (v.pixel (py * c.w + px)) := by
  have ho : py * c.w + px < c.w * c.h := Nat.mul_comm c.h c.w ▸ rowMajor_lt hx hy
  rw [pixel_drawShape, if_pos ho, pixelX_rowMajor hx, pixelY_rowMajor hx]

theorem VideoState.pixel_drawShape_beyond {c : Config} {o : Nat} (ho : c.w * c.h ≤ o) (v : VideoState)
    (shape : Int → Int → Option Byte) : (v.drawShape c shape).pixel o = v.pixel o := by
  rw [pixel_drawShape, if_neg ho.not_gt]

/-! ### The shapes of one value (R133 to R135) -/

theorem inSpan_iff {p base len : Int} : inSpan p base len = true ↔ base ≤ p ∧ p < base + len := by
  simp [inSpan]

/-- The shape holds the value exactly at the pixels that lie inside. -/
def FillsExactly (shape : Int → Int → Option Byte) (idx : Byte) (inside : Int → Int → Prop) : Prop :=
  ∀ px py, (inside px py → shape px py = some idx) ∧ (¬inside px py → shape px py = none)

theorem hlineShape_fills (idx : Byte) (x y len : Int) :
    FillsExactly (hlineShape idx x y len) idx fun px py => py = y ∧ x ≤ px ∧ px < x + len := by
  intro px py
  simp only [hlineShape, inSpan_iff]
  exact ⟨fun hin => if_pos hin, fun hout => if_neg hout⟩

theorem vlineShape_fills (idx : Byte) (x y len : Int) :
    FillsExactly (vlineShape idx x y len) idx fun px py => px = x ∧ y ≤ py ∧ py < y + len := by
  intro px py
  simp only [vlineShape, inSpan_iff]
  exact ⟨fun hin => if_pos hin, fun hout => if_neg hout⟩

theorem rectShape_fills (idx : Byte) (x y w h : Int) :
    FillsExactly (rectShape idx x y w h) idx fun px py => x ≤ px ∧ px < x + w ∧ y ≤ py ∧ py < y + h := by
  intro px py
  simp only [rectShape, inSpan_iff, and_assoc]
  exact ⟨fun hin => if_pos hin, fun hout => if_neg hout⟩

/-- A packet that draws a shape of one value draws the pixels inside it and no other, and never faults. -/
theorem draws_of_fills {i : Instr} {s : State} {shape : Int → Int → Option Byte} {idx : Byte}
    {inside : Int → Int → Prop} (he : exec i s = .next { s with video := s.video.drawShape s.cfg shape })
    (hs : FillsExactly shape idx inside) :
    ∃ t, exec i s = .next t ∧ s.onlyBackPixels t ∧
      (∀ px py : Nat, px < s.cfg.w → py < s.cfg.h →
        (inside px py → t.video.pixel (py * s.cfg.w + px) = idx) ∧
        (¬inside px py → t.video.pixel (py * s.cfg.w + px) = s.video.pixel (py * s.cfg.w + px))) ∧
      (∀ o, s.cfg.w * s.cfg.h ≤ o → t.video.pixel o = s.video.pixel o) := by
  refine ⟨_, he, s.onlyBackPixels_setFbBack _, fun px py hx hy => ?_,
    fun o ho => VideoState.pixel_drawShape_beyond ho _ _⟩
  obtain ⟨hin, hout⟩ := hs px py
  rw [VideoState.pixel_drawShape_rowMajor hx hy]
  exact ⟨fun hp => by rw [hin hp]; rfl, fun hp => by rw [hout hp]; rfl⟩

/-! ### The source rectangle of BLIT (R136) -/

/-- Byte `k` of a full source row `r` is one of the packet's bytes. -/
theorem blit_index_lt {srcw r k : Nat} {bytes : List Byte} (hr : r < bytes.length / srcw) (hk : k < srcw) :
    r * srcw + k < bytes.length :=
  (rowMajor_lt hk hr).trans_le (Nat.div_mul_le_self _ _)

theorem blitShape_source {srcw r k : Nat} {bytes : List Byte} (dx dy : Int) (hr : r < bytes.length / srcw)
    (hk : k < srcw) : blitShape srcw dx dy bytes (dx + k) (dy + r) = bytes[r * srcw + k]? := by
  have hx : inSpan (dx + k) dx srcw = true := inSpan_iff.mpr (by omega)
  have hy : inSpan (dy + r) dy ((bytes.length / srcw : Nat) : Int) = true := inSpan_iff.mpr (by omega)
  rw [blitShape, if_pos ⟨hx, hy⟩, List.getElem?_eq_getElem (blit_index_lt hr hk)]
  simp [blit_index_lt hr hk]

theorem blitShape_outside {srcw : Nat} {bytes : List Byte} {dx dy px py : Int}
    (h : ¬∃ r k : Nat, r < bytes.length / srcw ∧ k < srcw ∧ px = dx + k ∧ py = dy + r) :
    blitShape srcw dx dy bytes px py = none := by
  refine if_neg fun ⟨hx, hy⟩ => h ?_
  rw [inSpan_iff] at hx hy
  exact ⟨(py - dy).toNat, (px - dx).toNat, by omega, by omega, by omega, by omega⟩

end Sys2Proof.Machine

namespace Sys2Proof.Proofs

open Sys2Proof Sys2Proof.Machine

/-- Settles O36: each packet draws its shape, and the shape holds the value exactly where the statement says. -/
theorem shapesAreClipped : Obligations.ShapesAreClipped := by
  intro s idx x y w h
  refine ⟨fun hd => ⟨?_, ?_, ?_⟩, fun hs => ⟨?_, ?_, ?_⟩⟩
  · exact draws_of_fills (exec_hline hd idx x y w) (hlineShape_fills idx _ _ _)
  · exact draws_of_fills (exec_vline hd idx x y h) (vlineShape_fills idx _ _ _)
  · exact draws_of_fills (exec_fillrect hd idx x y w h) (rectShape_fills idx _ _ _ _)
  all_goals exact exec_framebuffer_inScanline rfl hs

/-- Settles O37: a pixel that a full source row reaches has that row's byte, and the shape is empty elsewhere. -/
theorem blitCopiesTheRectangle : Obligations.BlitCopiesTheRectangle := by
  intro s srcw dx dy bytes
  refine ⟨fun hd hw => ?_, fun hd hw => exec_blit_noWidth hd hw dx dy bytes,
    fun hs => exec_framebuffer_inScanline rfl hs⟩
  refine ⟨_, exec_blit hd hw dx dy bytes, s.onlyBackPixels_setFbBack _, fun px py hx hy => ?_,
    fun o ho => VideoState.pixel_drawShape_beyond ho _ _⟩
  rw [VideoState.pixel_drawShape_rowMajor hx hy]
  refine ⟨fun r k hr hk hpx hpy => ?_, fun hout => ?_⟩
  · rw [hpx, hpy, blitShape_source _ _ hr hk, List.getElem?_eq_getElem (blit_index_lt hr hk)]
    rfl
  · rw [blitShape_outside hout]
    rfl

/-- Settles O34: inside the framebuffer the packet writes one element, at the address of its pixel; outside it
raises the fault before any write. -/
theorem putpixelWritesOnePixel : Obligations.PutpixelWritesOnePixel := by
  intro s idx x y
  refine ⟨fun hd hx hxw hy hyh => ?_, fun hd hout => exec_putpixel_outside hd (mt inFrame_iff.mp hout) idx,
    fun hs => exec_framebuffer_inScanline rfl hs⟩
  have hin : inFrame s.cfg x.toInt y.toInt = true := inFrame_iff.mpr ⟨hx, hxw, hy, hyh⟩
  refine ⟨_, exec_putpixel_inside hd hin idx, s.onlyBackPixels_setFbBack _, fun o => ?_⟩
  simp only [VideoState.pixel_setPixel, eq_pixelIndex_iff hx hy]

/-- Settles O35: the packet draws the shape that holds the value at every pixel. -/
theorem clearFillsTheBackArray : Obligations.ClearFillsTheBackArray := by
  intro s idx
  refine ⟨fun hd => ?_, fun hs => exec_framebuffer_inScanline rfl hs⟩
  exact ⟨_, exec_clear hd idx, s.onlyBackPixels_setFbBack _, VideoState.pixel_drawShape s.cfg s.video _⟩

/-- Settles O39: STOPPED accepts the exchanges, and a hook window refuses them. -/
theorem exchangePackets : Obligations.ExchangePackets := fun _ =>
  ⟨exec_flip, exec_commit,
    fun h => ⟨exec_exchange_inVideoHook rfl h, exec_exchange_inVideoHook rfl h⟩⟩

end Sys2Proof.Proofs
end

section
/-! PROOFS of the statements on the palette (`spec/41_palette.md`). An accepted packet has one equation; the
entries of a painted range are read by their offset, and ROTPAL's source offset is the neighbour one place round
the range. -/

namespace Sys2Proof.Machine

/-! ### The range of a palette packet (R154, R155) -/

theorem rangeCheck_tooMany {count : BitVec 16} (h : 256 < count.toNat) (first : Byte) :
    rangeCheck first count = .error .badparam := if_pos h

theorem rangeCheck_pastEnd {first : Byte} {count : BitVec 16} (hc : count.toNat ≤ 256)
    (h : 256 < first.toNat + count.toNat) : rangeCheck first count = .error .ubRange :=
  (if_neg hc.not_gt).trans (if_pos h)

theorem rangeCheck_inside {first : Byte} {count : BitVec 16} (hc : count.toNat ≤ 256)
    (h : first.toNat + count.toNat ≤ 256) : rangeCheck first count = .ok () :=
  (if_neg hc.not_gt).trans (if_neg h.not_gt)

/-- A painted range, read at an offset inside it. -/
theorem VideoState.entry_paintRange_inside {first : Byte} {count : BitVec 16} {k : Nat}
    (h : first.toNat + count.toNat ≤ 256) (hk : k < count.toNat) (v : VideoState) (g : Nat → RGB) :
    (v.paintPalette (rangeEntries first count g)).entry (first.toNat + k) = g k := by
  have hin : first.toNat ≤ first.toNat + k ∧ first.toNat + k < first.toNat + count.toNat := by omega
  rw [entry_paintPalette, if_pos (by omega), rangeEntries, if_pos hin, Nat.add_sub_cancel_left]
  rfl

theorem VideoState.entry_paintRange_outside {first : Byte} {count : BitVec 16} {k : Nat}
    (hk : ¬(first.toNat ≤ k ∧ k < first.toNat + count.toNat)) (v : VideoState) (g : Nat → RGB) :
    (v.paintPalette (rangeEntries first count g)).entry k = v.entry k := by
  rw [entry_paintPalette, rangeEntries, if_neg hk]
  exact ite_self _

/-- Forward, the place after offset `k`, round the range, takes from offset `k` (R155). -/
theorem rotSource_forward {count k : Nat} (hk : k < count) : rotSource false count ((k + 1) % count) = k := by
  rcases Nat.lt_or_eq_of_le (Nat.succ_le_of_lt hk) with hlt | hlast
  · rw [Nat.mod_eq_of_lt hlt]
    rfl
  · rw [← hlast, Nat.mod_self]
    rfl

/-- Reversed, offset `k` takes from the place after it, round the range (R155). -/
theorem rotSource_reverse {count k : Nat} (hk : k < count) : rotSource true count k = (k + 1) % count := by
  rcases Nat.lt_or_eq_of_le (Nat.succ_le_of_lt hk) with hlt | hlast
  · rw [Nat.mod_eq_of_lt hlt]
    exact if_neg (Nat.ne_of_lt (Nat.lt_sub_of_add_lt hlt))
  · rw [← hlast, Nat.mod_self]
    exact if_pos (Nat.succ_sub_one k).symm

/-! ### What an accepted packet does (R151 to R157) -/

theorem State.canPaint_accepted {s : State} (h : s.canPaint) : s.video.phase.right .palette = .accepted := by
  rcases h.2 with hp | hp | hp <;> rw [hp] <;> rfl

section Accepted

variable {s : State}

theorem exec_palwr (h : s.canPaint) (i : Byte) (c : RGB) :
    exec (.palwr i c) s = .next { s with video := s.video.setEntry i.toNat c } := by
  unfold exec
  exact videoCommand_ok h.1 (State.canPaint_accepted h) rfl

theorem exec_palrd (h : s.canPaint) (i : Byte) :
    exec (.palrd i) s = .next { s with video := s.video.respond (rgbWord (s.video.entry i.toNat)) } := by
  unfold exec
  exact videoCommand_ok h.1 (State.canPaint_accepted h) rfl

theorem exec_pullf2b (h : s.canPaint) :
    exec .pullf2b s = .next { s with video := s.video.paintPalette fun i => some (s.video.shownEntry i) } := by
  unfold exec
  exact videoCommand_ok h.1 (State.canPaint_accepted h) rfl

theorem exec_rotpal {first : Byte} {count : BitVec 16} (h : s.canPaint)
    (hr : rangeCheck first count = .ok ()) (reverse : Bool) :
    exec (.rotpal first reverse count) s = .next
      { s with
        video := s.video.paintPalette (rangeEntries first count fun k =>
          s.video.entry (first.toNat + rotSource reverse count.toNat k)) } := by
  unfold exec
  exact videoCommand_ok h.1 (State.canPaint_accepted h) (by rw [hr])

theorem exec_rotpal_badRange {first : Byte} {count : BitVec 16} {k : Cause} (h : s.canPaint)
    (hr : rangeCheck first count = .error k) (reverse : Bool) :
    exec (.rotpal first reverse count) s = .next (s.videoFault k) := by
  unfold exec
  exact videoCommand_error h.1 (State.canPaint_accepted h) (by rw [hr])

end Accepted

/-! ### The frame of a write to the back table (R85) -/

theorem State.onlyBackEntries_setPalBack (s : State) (m : List (Nat × RGB)) :
    s.onlyBackEntries { s with video := s.video.setPalBack m } := by
  refine ⟨?_, fun i => by simp [VideoState.shownEntry]⟩
  unfold VideoState.setPalBack
  split <;> rfl

/-! ### The response word of PALRD (R152) -/

theorem rgbWord_bytes (c : RGB) :
    (rgbWord c).extractLsb' 24 8 = 0 ∧ (rgbWord c).extractLsb' 16 8 = c.r ∧
      (rgbWord c).extractLsb' 8 8 = c.g ∧ (rgbWord c).extractLsb' 0 8 = c.b := by
  unfold rgbWord
  refine ⟨?_, ?_, ?_, BitVec.extractLsb'_append_eq_right⟩ <;>
    rw [BitVec.extractLsb'_append_eq_of_le (by decide)]
  · rw [BitVec.extractLsb'_append_eq_of_le (by decide)]
    exact BitVec.extractLsb'_append_eq_left
  · rw [BitVec.extractLsb'_append_eq_of_le (by decide)]
    exact BitVec.extractLsb'_append_eq_right
  · exact BitVec.extractLsb'_append_eq_right

end Sys2Proof.Machine

namespace Sys2Proof.Proofs

open Sys2Proof Sys2Proof.Machine

/-- Settles O43: the range check gives the two faults; past it each offset of the range is read from its source,
which is the neighbour that R155 names. -/
theorem rotpalRotatesTheRange : Obligations.RotpalRotatesTheRange := by
  intro s first reverse count hp
  refine ⟨fun hc => exec_rotpal_badRange hp (rangeCheck_tooMany hc first) reverse,
    fun hc hr => exec_rotpal_badRange hp (rangeCheck_pastEnd hc hr) reverse, fun hc hr => ?_⟩
  refine ⟨_, exec_rotpal hp (rangeCheck_inside hc hr) reverse, s.onlyBackEntries_setPalBack _,
    fun k hk => VideoState.entry_paintRange_outside hk _ _, fun k hk => ⟨?_, ?_⟩⟩
  · rintro rfl
    have hnext : (k + 1) % count.toNat < count.toNat := Nat.mod_lt _ (Nat.zero_lt_of_lt hk)
    rw [VideoState.entry_paintRange_inside hr hnext, rotSource_forward hk]
  · rintro rfl
    rw [VideoState.entry_paintRange_inside hr hk, rotSource_reverse hk]

/-- Settles O40: PALWR sets the entry in the back table, and PALRD's response packs the entry's three channels. -/
theorem paletteEntries : Obligations.PaletteEntries := fun s i c hp =>
  ⟨⟨_, exec_palwr hp i c, s.onlyBackEntries_setPalBack _, s.video.entry_setEntry i.toNat c⟩,
    ⟨_, exec_palrd hp i, rgbWord_bytes _⟩⟩

/-- Settles O45: the packet paints every one of the 256 entries with the front table's. -/
theorem pullf2bCopiesTheFront : Obligations.Pullf2bCopiesTheFront := fun s hp =>
  ⟨_, exec_pullf2b hp, s.onlyBackEntries_setPalBack _,
    fun i hi => (s.video.entry_paintPalette _ i).trans (if_pos hi),
    fun i hi => (s.video.entry_paintPalette _ i).trans (if_neg hi.not_gt)⟩

end Sys2Proof.Proofs
end

section
/-! PROOFS of the statements on the raster sequencer (`spec/42_raster_sequencer.md`). The frame boundary and the
return from a hook have one equation per case, and so has every packet and step of the sequencer. A relation holds
the rows of R170's table; an instruction, and so a step, keeps the phase and the line or makes one of its rows. -/

namespace Sys2Proof.Machine

/-! ### The frame boundary and the return from a hook (R172, R174) -/

theorem VideoState.enterFrame_running {v : VideoState} (h : v.quit = false) :
    v.enterFrame = { v with line := 0, phase := .framedraw, events := v.events ++ [.hookreqFrame] } :=
  if_neg (by simp [h])

theorem VideoState.enterFrame_quitting {v : VideoState} (h : v.quit = true) :
    v.enterFrame = { v with phase := .stopped } := if_pos h

/-- Everything the frame boundary can do: the next frame, or the stop. -/
theorem VideoState.enterFrame_cases (v : VideoState) :
    (v.quit = false ∧
      v.enterFrame = { v with line := 0, phase := .framedraw, events := v.events ++ [.hookreqFrame] }) ∨
    (v.quit = true ∧ v.enterFrame = { v with phase := .stopped }) := by
  rcases Bool.eq_false_or_eq_true v.quit with hq | hq
  · exact .inr ⟨hq, enterFrame_quitting hq⟩
  · exact .inl ⟨hq, enterFrame_running hq⟩

section HookReturn

variable {c : Config} {v : VideoState}

theorem VideoState.hookReturn_framedraw (h : v.phase = .framedraw) : v.hookReturn c = v.enterScanline 0 := by
  simp [hookReturn, h]

theorem VideoState.hookReturn_nextLine (h : v.phase = .scanline) (hl : v.line.toNat + 1 < c.h) :
    v.hookReturn c = v.enterScanline (v.line + 1) := by
  simp [hookReturn, h, hl]

/-- The next line's entry stays in the scanline phase. -/
theorem VideoState.enterScanline_inScanline (h : v.phase = .scanline) (line : BitVec 16) :
    v.enterScanline line = { v with line := line, events := v.events ++ [.hookreqScanline line] } := by
  unfold enterScanline
  rw [← h]
  rfl

theorem VideoState.hookReturn_lastLine (h : v.phase = .scanline) (hl : v.line.toNat + 1 = c.h) :
    v.hookReturn c = { v with phase := .flip } := by
  simp [hookReturn, h, hl]

/-- Everything the return from a hook can do: one of R174's three, or nothing where no hook is open or the line is
beyond the frame (notes/assumptions/20). -/
theorem VideoState.hookReturn_cases (c : Config) (v : VideoState) :
    (v.phase = .framedraw ∧ v.hookReturn c = v.enterScanline 0) ∨
    (v.phase = .scanline ∧ v.line.toNat + 1 < c.h ∧ v.hookReturn c = v.enterScanline (v.line + 1)) ∨
    (v.phase = .scanline ∧ v.line.toNat + 1 = c.h ∧ v.hookReturn c = { v with phase := .flip }) ∨
    v.hookReturn c = v := by
  cases hp : v.phase with
  | framedraw => exact .inl ⟨rfl, hookReturn_framedraw hp⟩
  | scanline =>
    rcases Nat.lt_trichotomy (v.line.toNat + 1) c.h with hl | hl | hl
    · exact .inr (.inl ⟨rfl, hl, hookReturn_nextLine hp hl⟩)
    · exact .inr (.inr (.inl ⟨rfl, hl, hookReturn_lastLine hp hl⟩))
    · exact .inr (.inr (.inr (by simp [hookReturn, hp, hl.not_gt, hl.ne'])))
  | stopped | flip | commit | present | pace => exact .inr (.inr (.inr (by simp [hookReturn, hp])))

end HookReturn

/-! ### What the packets and the steps of the sequencer do (R171, R174, R177 to R181) -/

/-- A sequencer step that is selected and enabled happens (R290 (d)). -/
theorem seqStep_enabled {p : Phase} {en : VideoState → Bool} {s : State} (hf : s.video.fault.valid = false)
    (hp : s.video.phase = p) (he : en s.video = true) (body : VideoState → VideoState) :
    seqStep p en s body = .next { s with video := body s.video } := by
  simp [seqStep, hf, hp, he]

theorem seqStep_disabled {en : VideoState → Bool} {s : State} (he : en s.video = false) (p : Phase)
    (body : VideoState → VideoState) : seqStep p en s body = .next s := by
  simp [seqStep, he]

/-- PACE's deadline is an integer sum (R32) that the register holds modulo its width. -/
theorem VideoState.ofNat_nextDeadline (v : VideoState) :
    BitVec.ofNat 64 v.nextDeadline = v.deadline + v.tpf := (BitVec.add_def ..).symm

theorem VideoState.paceEnabled_iff {v : VideoState} :
    v.paceEnabled = true ↔ v.deadline.toNat + v.tpf.toNat ≤ v.now.toNat := decide_eq_true_iff

section Selected

variable {s : State}

theorem exec_run {fps : BitVec 16} (h : s.isStopped) (hfps : fps ≠ 0) :
    exec (.run fps) s = .next
      { s with
        video := VideoState.enterFrame
          { s.video with tpf := BitVec.ofNat 64 (s.cfg.tickHz / fps.toNat), deadline := s.video.now } } := by
  unfold exec
  exact videoCommand_ok h.1 (by rw [h.2]; rfl) (if_neg hfps)

theorem exec_run_zero {fps : BitVec 16} (h : s.isStopped) (hfps : fps = 0) :
    exec (.run fps) s = .next (s.videoFault .badparam) := by
  unfold exec
  exact videoCommand_error h.1 (by rw [h.2]; rfl) (if_pos hfps)

theorem exec_run_inVideoHook (h : s.inVideoHook) (fps : BitVec 16) :
    exec (.run fps) s = .next (s.videoFault .access) :=
  exec_refused rfl h.1 (by rcases h.2 with hp | hp <;> rw [hp] <;> rfl)

theorem exec_hookret (h : s.inVideoHook) :
    exec .hookret s = .next { s with video := s.video.hookReturn s.cfg } := by
  unfold exec
  exact videoCommand_ok h.1 (by rcases h.2 with hp | hp <;> rw [hp] <;> rfl) rfl

theorem exec_hookret_isStopped (h : s.isStopped) : exec .hookret s = .next (s.videoFault .access) :=
  exec_refused rfl h.1 (by rw [h.2]; rfl)

theorem exec_seqFramedraw (hf : s.video.fault.valid = false) (hp : s.video.phase = .framedraw) :
    exec .seqFramedraw s = .next s := by
  unfold exec
  exact seqStep_enabled hf hp rfl _

theorem exec_seqScanline (hf : s.video.fault.valid = false) (hp : s.video.phase = .scanline) :
    exec .seqScanline s = .next s := by
  unfold exec
  exact seqStep_enabled hf hp rfl _

theorem exec_seqFlip (hf : s.video.fault.valid = false) (hp : s.video.phase = .flip) :
    exec .seqFlip s = .next { s with video := { s.video.flipRoles with phase := .commit } } := by
  unfold exec
  exact seqStep_enabled hf hp rfl _

theorem exec_seqCommit (hf : s.video.fault.valid = false) (hp : s.video.phase = .commit) :
    exec .seqCommit s = .next { s with video := { s.video.commitRoles with phase := .present } } := by
  unfold exec
  exact seqStep_enabled hf hp rfl _

theorem exec_seqPresent (hf : s.video.fault.valid = false) (hp : s.video.phase = .present)
    (hr : s.video.presentReady = true) :
    exec .seqPresent s = .next
      { s with
        video :=
          { s.video with
            phase := .pace
            events := s.video.events ++
              [.present (memList 0 s.video.fbFront (s.cfg.w * s.cfg.h))
                (memList RGB.black s.video.palFront 256)] } } := by
  unfold exec
  exact seqStep_enabled hf hp hr _

theorem exec_seqPresent_notReady (hr : s.video.presentReady = false) : exec .seqPresent s = .next s := by
  unfold exec
  exact seqStep_disabled hr _ _

theorem exec_seqPace (hf : s.video.fault.valid = false) (hp : s.video.phase = .pace)
    (hd : s.video.deadline.toNat + s.video.tpf.toNat ≤ s.video.now.toNat) :
    exec .seqPace s = .next
      { s with
        video := VideoState.enterFrame { s.video with deadline := s.video.deadline + s.video.tpf } } := by
  unfold exec
  rw [← s.video.ofNat_nextDeadline]
  exact seqStep_enabled hf hp (VideoState.paceEnabled_iff.mpr hd) _

theorem exec_seqPace_early (hd : s.video.now.toNat < s.video.deadline.toNat + s.video.tpf.toNat) :
    exec .seqPace s = .next s := by
  unfold exec
  exact seqStep_disabled (decide_eq_false hd.not_ge) _ _

end Selected

/-! ### The arrays of a PRESENT (R180, R186) -/

theorem length_memList {α : Type} (z : α) (m : List (Nat × α)) (n : Nat) : (memList z m n).length = n := by
  simp [memList]

theorem memList_getElem? {α : Type} (z : α) (m : List (Nat × α)) {n i : Nat} (h : i < n) :
    (memList z m n)[i]? = some (memRead z m i) := by
  simp [memList, h]

/-- The displayed picture of whole memories: at every pixel the entry that the pixel's value names. -/
theorem picture_memList (m : List (Nat × Byte)) (pal : List (Nat × RGB)) {n o : Nat} (h : o < n) :
    (picture (memList 0 m n) (memList RGB.black pal 256))[o]? =
      some (memRead RGB.black pal (memRead 0 m o).toNat) := by
  have hi : (memRead 0 m o).toNat < 256 := (memRead 0 m o).isLt
  rw [picture, List.getElem?_map, memList_getElem? 0 m h, Option.map_some, List.getD_eq_getElem?_getD,
    memList_getElem? RGB.black pal hi, Option.getD_some]

/-! ### The transition table (R170) -/

/-- The registers that R170's table moves: `SEQ.PHASE` and `SEQ.LINE`. -/
def VideoState.seqPos (v : VideoState) : Phase × BitVec 16 := (v.phase, v.line)

/-- The rows of R170's table from `v` to `v'`, each under the packet or the step that makes it and with its
condition; the line is as R172 and R174 say. -/
inductive SeqRow (c : Config) (v v' : VideoState) : Instr → Prop where
  | run (fps : BitVec 16) (before : v.phase = .stopped) (quit : v.quit = false) (after : v'.phase = .framedraw)
      (line : v'.line = 0) : SeqRow c v v' (.run fps)
  | firstLine (before : v.phase = .framedraw) (after : v'.phase = .scanline) (line : v'.line = 0) :
      SeqRow c v v' .hookret
  | nextLine (before : v.phase = .scanline) (more : v.line.toNat + 1 < c.h) (after : v'.phase = .scanline)
      (line : v'.line = v.line + 1) : SeqRow c v v' .hookret
  | lastLine (before : v.phase = .scanline) (last : v.line.toNat + 1 = c.h) (after : v'.phase = .flip)
      (line : v'.line = v.line) : SeqRow c v v' .hookret
  | flip (before : v.phase = .flip) (after : v'.phase = .commit) (line : v'.line = v.line) :
      SeqRow c v v' .seqFlip
  | commit (before : v.phase = .commit) (after : v'.phase = .present) (line : v'.line = v.line) :
      SeqRow c v v' .seqCommit
  | present (before : v.phase = .present) (ready : v.presentReady = true) (after : v'.phase = .pace)
      (line : v'.line = v.line) : SeqRow c v v' .seqPresent
  | nextFrame (before : v.phase = .pace) (quit : v.quit = false)
      (due : v.deadline.toNat + v.tpf.toNat ≤ v.now.toNat) (after : v'.phase = .framedraw) (line : v'.line = 0) :
      SeqRow c v v' .seqPace
  | stop (before : v.phase = .pace) (quit : v.quit = true)
      (due : v.deadline.toNat + v.tpf.toNat ≤ v.now.toNat) (after : v'.phase = .stopped) (line : v'.line = v.line) :
      SeqRow c v v' .seqPace

/-- No row depends on the words that wait at the port. -/
theorem SeqRow.of_withVcmd {c : Config} {v v' : VideoState} {ws : List Word} {i : Instr}
    (h : SeqRow c { v with vcmd := ws } v' i) : SeqRow c v v' i := by
  cases h with
  | run fps before quit after line => exact .run fps before quit after line
  | firstLine before after line => exact .firstLine before after line
  | nextLine before more after line => exact .nextLine before more after line
  | lastLine before last after line => exact .lastLine before last after line
  | flip before after line => exact .flip before after line
  | commit before after line => exact .commit before after line
  | present before ready after line => exact .present before ready after line
  | nextFrame before quit due after line => exact .nextFrame before quit due after line
  | stop before quit due after line => exact .stop before quit due after line

/-- A VCMD packet keeps the phase and the line, or the phase accepts it and its pseudocode has run. -/
theorem videoCommand_seqPos_cases {c : VClass} {s t : State} {body : VideoState → Except Cause VideoState}
    (h : videoCommand c s body = .next t) :
    t.video.seqPos = s.video.seqPos ∨ (s.video.phase.right c = .accepted ∧ body s.video = .ok t.video) := by
  rcases videoCommand_cases h with rfl | ⟨k, -, rfl⟩ | ⟨-, hr, ⟨v, hv, rfl⟩ | ⟨k, -, rfl⟩⟩
  · exact .inl rfl
  · exact .inl rfl
  · exact .inr ⟨hr, hv⟩
  · exact .inl rfl

theorem videoCommand_seqPos {c : VClass} {s t : State} {body : VideoState → Except Cause VideoState}
    (hb : ∀ v, body s.video = .ok v → v.phase = s.video.phase ∧ v.line = s.video.line)
    (h : videoCommand c s body = .next t) : t.video.seqPos = s.video.seqPos := by
  rcases videoCommand_seqPos_cases h with hk | ⟨-, hv⟩
  · exact hk
  · obtain ⟨hp, hl⟩ := hb _ hv
    exact Prod.ext hp hl

/-- RUN is accepted in STOPPED only (R176). -/
theorem Phase.right_run {p : Phase} (h : p.right .run = .accepted) : p = .stopped := by
  cases p <;> first | rfl | cases h

theorem execRun_seqRow {fps : BitVec 16} {s t : State} (h : execRun fps s = .next t) :
    t.video.seqPos = s.video.seqPos ∨ SeqRow s.cfg s.video t.video (.run fps) := by
  rcases videoCommand_seqPos_cases h with hk | ⟨hr, hb⟩
  · exact .inl hk
  have hp := Phase.right_run hr
  split at hb
  · cases hb
  have hv := (Except.ok.inj hb).symm
  rcases VideoState.enterFrame_cases
      { s.video with tpf := BitVec.ofNat 64 (s.cfg.tickHz / fps.toNat), deadline := s.video.now }
    with ⟨hq, he⟩ | ⟨hq, he⟩ <;> rw [he] at hv
  · exact .inr (.run fps hp hq (by rw [hv]) (by rw [hv]))
  · exact .inl (by rw [hv]; exact Prod.ext hp.symm rfl)

theorem execHookret_seqRow {s t : State} (h : execHookret s = .next t) :
    t.video.seqPos = s.video.seqPos ∨ SeqRow s.cfg s.video t.video .hookret := by
  rcases videoCommand_seqPos_cases h with hk | ⟨-, hb⟩
  · exact .inl hk
  have hv := (Except.ok.inj hb).symm
  rcases s.video.hookReturn_cases s.cfg with ⟨hp, he⟩ | ⟨hp, hl, he⟩ | ⟨hp, hl, he⟩ | he <;> rw [he] at hv
  · exact .inr (.firstLine hp (by rw [hv]; rfl) (by rw [hv]; rfl))
  · exact .inr (.nextLine hp hl (by rw [hv]; rfl) (by rw [hv]; rfl))
  · exact .inr (.lastLine hp hl (by rw [hv]) (by rw [hv]))
  · exact .inl (by rw [hv])

/-- A sequencer step that happens makes the row that its body makes. -/
theorem seqStep_seqRow {i : Instr} {p : Phase} {en : VideoState → Bool} {s t : State}
    {body : VideoState → VideoState}
    (hb : s.video.phase = p → en s.video = true → SeqRow s.cfg s.video (body s.video) i)
    (h : seqStep p en s body = .next t) : t.video.seqPos = s.video.seqPos ∨ SeqRow s.cfg s.video t.video i := by
  rcases seqStep_cases h with rfl | ⟨-, hp, he, rfl⟩
  · exact .inl rfl
  · exact .inr (hb hp he)

theorem execSeqPace_seqRow {s t : State} (h : execSeqPace s = .next t) :
    t.video.seqPos = s.video.seqPos ∨ SeqRow s.cfg s.video t.video .seqPace := by
  refine seqStep_seqRow (fun hp hen => ?_) h
  have hdue := VideoState.paceEnabled_iff.mp hen
  rcases VideoState.enterFrame_cases { s.video with deadline := BitVec.ofNat 64 s.video.nextDeadline }
    with ⟨hq, he⟩ | ⟨hq, he⟩ <;> rw [he]
  · exact .nextFrame hp hq hdue rfl rfl
  · exact .stop hp hq hdue rfl rfl

/-- What an instruction can make of the phase and the line: nothing, or the row of the table that it stands in. -/
theorem exec_seqRow {i : Instr} {s t : State} (h : exec i s = .next t) :
    t.video.seqPos = s.video.seqPos ∨ SeqRow s.cfg s.video t.video i := by
  have haudio := @exec_audio_frame i s t
  unfold exec at h haudio
  cases i with
  | run fps => exact execRun_seqRow h
  | hookret => exact execHookret_seqRow h
  | seqFlip => exact seqStep_seqRow (fun hp _ => .flip hp rfl rfl) h
  | seqCommit => exact seqStep_seqRow (fun hp _ => .commit hp rfl rfl) h
  | seqPresent => exact seqStep_seqRow (fun hp hready => .present hp hready rfl rfl) h
  | seqPace => exact execSeqPace_seqRow h
  | seqFramedraw | seqScanline => exact .inl (by rcases seqStep_cases h with rfl | ⟨-, -, -, rfl⟩ <;> rfl)
  | clear | hline | vline | fillrect | palwr | palrd | pullf2b | flip | commit =>
    exact .inl (videoCommand_seqPos (by rintro v ⟨⟩; simp) h)
  | putpixel | blit | setgrad | rotpal =>
    refine .inl (videoCommand_seqPos (fun v hv => ?_) h)
    split at hv <;> cases hv
    simp
  | _ =>
    obtain ⟨a, rfl⟩ := haudio (by simp [Instr.port]) h
    exact .inl rfl

/-- A move that runs no instruction keeps the phase and the line, unless it is the release of `reset`. -/
theorem State.move_stay_seqPos {s t : State} {m : Move} (h : s.move m = .stay t)
    (hr : s.inReset = true → m ≠ .reset false) : t.video.seqPos = s.video.seqPos := by
  cases m with
  | video => rcases State.videoTurn_stay h with rfl | ⟨-, -, -, why, rest, -, rfl⟩ <;> rfl
  | audio | acmd | pull | takeArsp =>
    obtain ⟨a, rfl⟩ := State.move_stay_ofAudio rfl h
    rfl
  | tick n =>
    simp only [State.move, State.tick] at h
    split at h <;> cases h
    rfl
  | reset level =>
    cases h
    cases level with
    | true => rfl
    | false =>
      have hn : s.inReset = false := by simpa using hr
      simp [setReset, hn]
  | vcmd | quitReq | presentReady | takeVrsp => cases h; rfl

theorem State.nextMove_ne_release {s : State} (hr : s.releasesReset = false) (hi : s.nextMove.2.inReset = true) :
    s.nextMove.1 ≠ .reset false := by
  intro hm
  simp [releasesReset, hm, s.nextMove_inReset.symm.trans hi] at hr

/-- What a step can make of the phase and the line, the release of `reset` aside: nothing, or a turn of the video
domain makes a row of the table, a packet's row with that packet at the port (R170). -/
theorem step_seqRow {s t : State} (hr : s.releasesReset = false) (h : step s = .next t) :
    t.video.seqPos = s.video.seqPos ∨
    (s.nextMove.1 = .video ∧ ∃ i, SeqRow s.cfg s.video t.video i ∧
      (i.port = .vcmd → ∃ rest, decodeVideo s.cfg.fmt s.video.vcmd = .packet i rest)) := by
  rcases step_cases h with hf | ⟨i, s', hf, he⟩
  · exact .inl (by simpa using State.move_stay_seqPos hf (State.nextMove_ne_release hr))
  rcases State.move_run_port hf with ⟨-, hm, rest, hd, rfl⟩ | ⟨hp, hm, rfl⟩ | ⟨hp, -, rest, -, rfl⟩ | ⟨hp, rfl, -⟩
  · rcases exec_seqRow he with hk | hrow
    · exact .inl (hk.trans (by simp [VideoState.seqPos]))
    · exact .inr ⟨hm, i, by simpa using SeqRow.of_withVcmd hrow, fun _ => ⟨rest, by simpa using hd⟩⟩
  · exact (exec_seqRow he).imp (by simp) fun hrow => ⟨hm, i, by simpa using hrow, by simp [hp]⟩
  · obtain ⟨a, rfl⟩ := exec_audio_frame (.inl hp) he
    exact .inl (by simp)
  · obtain ⟨a, rfl⟩ := exec_audio_frame (.inr hp) he
    exact .inl (by simp)

end Sys2Proof.Machine

namespace Sys2Proof.Proofs

open Sys2Proof Sys2Proof.Machine

/-- Settles O24: a step that changes the phase or the line makes a row of the table, and each row is the
statement's. -/
theorem sequencerTransitions : Obligations.SequencerTransitions := by
  intro s t hr h
  rcases step_seqRow hr h with hk | ⟨hm, i, hrow, hport⟩
  · exact .inl (Prod.ext_iff.mp hk)
  refine .inr ⟨hm, ?_⟩
  cases hrow with
  | run fps hp hq ht hl => exact .inl ⟨hp, ht, hl, hq, fps, hport rfl⟩
  | firstLine hp ht hl => exact .inr (.inl ⟨hp, ht, hl, hport rfl⟩)
  | nextLine hp hmore ht hl => exact .inr (.inr (.inl ⟨hp, hmore, ht, hl, hport rfl⟩))
  | lastLine hp hlast ht hl => exact .inr (.inr (.inr (.inl ⟨hp, hlast, ht, hl, hport rfl⟩)))
  | flip hp ht hl => exact .inr (.inr (.inr (.inr (.inl ⟨hp, ht, hl⟩))))
  | commit hp ht hl => exact .inr (.inr (.inr (.inr (.inr (.inl ⟨hp, ht, hl⟩)))))
  | present hp hready ht hl => exact .inr (.inr (.inr (.inr (.inr (.inr (.inl ⟨hp, ht, hl, hready⟩))))))
  | nextFrame hp hq hdue ht hl =>
    exact .inr (.inr (.inr (.inr (.inr (.inr (.inr (.inl ⟨hp, ht, hl, hq, hdue⟩)))))))
  | stop hp hq hdue ht hl =>
    exact .inr (.inr (.inr (.inr (.inr (.inr (.inr (.inr ⟨hp, ht, hl, hq, hdue⟩)))))))

/-- Settles O29: RUN writes the period and the deadline and takes the frame boundary, which goes by `SEQ.QUIT`. -/
theorem runStartsTheLoop : Obligations.RunStartsTheLoop := by
  intro s fps
  refine ⟨exec_run_zero, fun h hfps hq => ?_, fun h hfps hq => ?_, fun h => exec_run_inVideoHook h fps⟩
  · rw [exec_run h hfps, VideoState.enterFrame_running]
    exact hq
  · rw [exec_run h hfps, VideoState.enterFrame_quitting]
    exact hq

/-- Settles O30: in the two hook windows HOOKRET is the hook's return, by its case; STOPPED refuses it. -/
theorem hookretReturns : Obligations.HookretReturns := by
  intro s hf
  refine ⟨fun hp => ?_, fun hp hl => ?_, fun hp hl => ?_, fun hp => exec_hookret_isStopped ⟨hf, hp⟩⟩
  · rw [exec_hookret ⟨hf, .inl hp⟩, VideoState.hookReturn_framedraw hp]
    rfl
  · rw [exec_hookret ⟨hf, .inr hp⟩, VideoState.hookReturn_nextLine hp hl, VideoState.enterScanline_inScanline hp]
  · rw [exec_hookret ⟨hf, .inr hp⟩, VideoState.hookReturn_lastLine hp hl]

/-- Settles O31: each of the four steps has its own equation in its phase. -/
theorem sequencerWaitsAndExchanges : Obligations.SequencerWaitsAndExchanges := fun _ hf =>
  ⟨exec_seqFramedraw hf, exec_seqScanline hf, exec_seqFlip hf, exec_seqCommit hf⟩

/-- Settles O32: the event's two lists are the front memories read from index 0 on. -/
theorem presentHandsOverTheFront : Obligations.PresentHandsOverTheFront := by
  intro s hf hp
  refine ⟨fun hr => ⟨_, _, exec_seqPresent hf hp hr, length_memList .., length_memList ..,
    fun o ho => memList_getElem? _ _ ho, fun i hi => memList_getElem? _ _ hi, fun o ho => picture_memList _ _ ho⟩,
    exec_seqPresent_notReady⟩

/-- Settles O33: from the deadline on PACE advances it and takes the frame boundary, which goes by `SEQ.QUIT`. -/
theorem paceAdvancesTheDeadline : Obligations.PaceAdvancesTheDeadline := by
  intro s hf hp
  refine ⟨fun hd hq => ?_, fun hd hq => ?_, exec_seqPace_early⟩
  · rw [exec_seqPace hf hp hd, VideoState.enterFrame_running]
    exact hq
  · rw [exec_seqPace hf hp hd, VideoState.enterFrame_quitting]
    exact hq

end Sys2Proof.Proofs
end

section
/-! PROOFS of the statements on the oscillator (`spec/43_oscillator.md`). A finite pattern has an integer value, and an
operation whose exact result is between two values of the format gives a value between them. So each waveform's
bounds follow from the exact bounds of its terms. -/

namespace Sys2Proof.Machine

/-! ### The value of a pattern (R13) -/

/-- A finite pattern's value, in units of the format's least positive value. -/
def HasValue (f : Fmt) (x : FReal) (v : Int) : Prop := ∃ a n, unpack f x = .fin a n ∧ signed a n = v

/-- The number 1 in those units. -/
def oneUnits (f : Fmt) : Int := 2 ^ scale f

/-- A finite pattern with a value between two others. -/
def Between (f : Fmt) (l h : Int) (x : FReal) : Prop := ∃ v, HasValue f x v ∧ l ≤ v ∧ v ≤ h

theorem oneUnits_pos (f : Fmt) : 0 < oneUnits f := by unfold oneUnits; positivity

theorem signed_not (a : Bool) (n : Nat) : signed (!a) n = -signed a n := by cases a <;> simp [signed]

theorem signed_mul (a b : Bool) (m n : Nat) : signed (a != b) (m * n) = signed a m * signed b n := by
  cases a <;> cases b <;> simp [signed]

theorem signed_natAbs (n : Int) : signed (decide (n < 0)) n.natAbs = n := by
  simp only [signed, decide_eq_true_eq]
  omega

theorem hasValue_withSign_zero (f : Fmt) (neg : Bool) : HasValue f (withSign f neg 0) 0 := by
  have hpos : 0 < infBits f := by cases f <;> decide
  refine ⟨neg, _, unpack_withSign f neg hpos, ?_⟩
  rw [magValue_zero]
  cases neg <;> rfl

/-- The sign of a pattern is its top bit. -/
theorem sign_eq_testBit (k b : Nat) : decide (2 ^ k ≤ b % 2 ^ (k + 1)) = b.testBit k := by
  have hlow : b % 2 ^ k < 2 ^ k := Nat.mod_lt _ (by positivity)
  rw [Nat.testBit_eq_decide_div_mod_eq, Nat.mod_pow_succ]
  rcases Nat.mod_two_eq_zero_or_one (b / 2 ^ k) with h | h <;> rw [h, decide_eq_decide] <;> omega

/-- The sign change flips the top bit and keeps the magnitude. -/
theorem unpack_fneg {f : Fmt} {x : FReal} {a : Bool} {n : Nat} (h : unpack f x = .fin a n) :
    unpack f (fneg f x) = .fin (!a) n := by
  obtain ⟨k, hk⟩ : ∃ k, width f = k + 1 := by cases f <;> exact ⟨_, rfl⟩
  have hk64 : k < 64 := by
    have hw : width f ≤ 64 := by cases f <;> decide
    omega
  have hflip : fneg f x = x ^^^ withSign f true 0 := by unfold fneg; rw [h]
  have hbit : (withSign f true 0).toNat = 2 ^ k := by
    simp [withSign, hk, Nat.mod_eq_of_lt (Nat.pow_lt_pow_right (a := 2) (by omega) hk64)]
  have hmag (b : Nat) : b % 2 ^ (k + 1) % 2 ^ k = b % 2 ^ k := Nat.mod_mod_of_dvd _ ⟨2, by ring⟩
  have hsame : (x.toNat ^^^ 2 ^ k) % 2 ^ k = x.toNat % 2 ^ k := by simp [Nat.xor_mod_two_pow]
  have hsign : (x.toNat ^^^ 2 ^ k).testBit k = !x.toNat.testBit k := by
    simp [Nat.testBit_xor, Nat.testBit_two_pow_self]
  rw [hflip]
  unfold unpack at h ⊢
  simp only [BitVec.toNat_xor, hbit, hk, Nat.add_sub_cancel, hmag, hsame, sign_eq_testBit, hsign] at h ⊢
  split_ifs at h ⊢ <;> cases h <;> rfl

theorem HasValue.neg {f : Fmt} {x : FReal} {v : Int} (h : HasValue f x v) : HasValue f (fneg f x) (-v) := by
  obtain ⟨a, n, hx, rfl⟩ := h
  exact ⟨!a, n, unpack_fneg hx, signed_not a n⟩

theorem HasValue.fle_iff {f : Fmt} {x y : FReal} {v w : Int} (hx : HasValue f x v) (hy : HasValue f y w) :
    fle f x y = true ↔ v ≤ w := by
  obtain ⟨a, m, hm, rfl⟩ := hx
  obtain ⟨b, n, hn, rfl⟩ := hy
  simp [fle, hm, hn]

theorem HasValue.flt_iff {f : Fmt} {x y : FReal} {v w : Int} (hx : HasValue f x v) (hy : HasValue f y w) :
    flt f x y = true ↔ v < w := by
  simp only [flt, Bool.and_eq_true, Bool.not_eq_true', ← Bool.not_eq_true, hx.fle_iff hy, hy.fle_iff hx]
  omega

theorem HasValue.feq_iff {f : Fmt} {x y : FReal} {v w : Int} (hx : HasValue f x v) (hy : HasValue f y w) :
    feq f x y = true ↔ v = w := by
  simp only [feq, Bool.and_eq_true, hx.fle_iff hy, hy.fle_iff hx]
  omega

/-- What stands between two finite values is finite. -/
theorem between_iff_fle {f : Fmt} {lo hi x : FReal} {l h : Int} (hl : HasValue f lo l) (hh : HasValue f hi h) :
    Between f l h x ↔ fle f lo x = true ∧ fle f x hi = true := by
  constructor
  · rintro ⟨v, hv, h1, h2⟩
    exact ⟨(hl.fle_iff hv).mpr h1, (hv.fle_iff hh).mpr h2⟩
  · rintro ⟨h1, h2⟩
    obtain ⟨v, hv⟩ : ∃ v, HasValue f x v := by
      obtain ⟨a, m, hm, -⟩ := hl
      obtain ⟨b, n, hn, -⟩ := hh
      unfold fle at h1 h2
      rw [hm] at h1
      rw [hn] at h2
      cases hx : unpack f x with
      | nan => simp [hx] at h1
      | inf neg => cases neg <;> simp [hx] at h1 h2
      | fin c k => exact ⟨_, c, k, hx, rfl⟩
    exact ⟨v, hv, (hl.fle_iff hv).mp h1, (hv.fle_iff hh).mp h2⟩

/-! ### Rounding stays between two values of the format -/

/-- A value that is not negative is that of a magnitude. -/
theorem HasValue.exists_mag {f : Fmt} {x : FReal} {v : Int} (hx : HasValue f x v) (hv : 0 ≤ v) :
    ∃ mag, mag < infBits f ∧ v = magValue f mag := by
  obtain ⟨a, n, hu, rfl⟩ := hx
  obtain ⟨mag, hlt, rfl⟩ := unpack_fin hu
  cases a with
  | false => exact ⟨mag, hlt, rfl⟩
  | true =>
    have h0 : magValue f mag = 0 := by simp only [signed, if_true] at hv; omega
    exact ⟨mag, hlt, by simp [signed, h0]⟩

section Bounds

variable {f : Fmt} {num den : Nat}

/-- Rounding does not pass a finite value above the exact result. -/
theorem HasValue.roundMag_below {hi : FReal} {h : Int} (hh : HasValue f hi h) (hden : 0 < den)
    (hle : (num : Int) ≤ h * den) :
    roundMag f num den < infBits f ∧ (magValue f (roundMag f num den) : Int) ≤ h := by
  have hnonneg : 0 ≤ h := nonneg_of_mul_nonneg_left (by omega : 0 ≤ h * (den : Int)) (by omega)
  obtain ⟨mag, hlt, rfl⟩ := hh.exists_mag hnonneg
  have hround := roundMag_le f hden (by exact_mod_cast hle)
  exact ⟨by omega, by exact_mod_cast magValue_mono f hround⟩

/-- Rounding does not pass a finite value below the exact result. -/
theorem HasValue.roundMag_above {lo : FReal} {l : Int} (hl : HasValue f lo l) (hden : 0 < den)
    (hle : l * den ≤ num) : l ≤ magValue f (roundMag f num den) := by
  rcases lt_or_ge l 0 with hneg | hnonneg
  · omega
  · obtain ⟨mag, -, rfl⟩ := hl.exists_mag hnonneg
    have hround := le_roundMag f hden (by exact_mod_cast hle)
    exact_mod_cast magValue_mono f hround

/-- A result between two finite values is rounded to one between them. -/
theorem between_fround {lo hi : FReal} {l h : Int} (hl : HasValue f lo l) (hh : HasValue f hi h)
    (neg : Bool) (hden : 0 < den) (h1 : l * den ≤ signed neg num) (h2 : signed neg num ≤ h * den) :
    Between f l h (fround f neg num den) := by
  cases neg with
  | false =>
    obtain ⟨hlt, hle⟩ := hh.roundMag_below hden h2
    exact ⟨_, ⟨_, _, unpack_fround hlt, rfl⟩, hl.roundMag_above hden h1, hle⟩
  | true =>
    simp only [signed, if_true] at h1 h2
    obtain ⟨hlt, hle⟩ := hl.neg.roundMag_below (num := num) hden (by rw [neg_mul]; omega)
    have hge := hh.neg.roundMag_above (num := num) hden (by rw [neg_mul]; omega)
    refine ⟨_, ⟨_, _, unpack_fround hlt, rfl⟩, ?_⟩
    simp only [signed, if_true]
    omega

theorem between_roundInt {lo hi : FReal} {l h : Int} (hl : HasValue f lo l) (hh : HasValue f hi h)
    (zeroNeg : Bool) {n : Int} (hden : 0 < den) (h1 : l * den ≤ n) (h2 : n ≤ h * den) :
    Between f l h (roundInt f zeroNeg n den) := by
  unfold roundInt
  split
  · next h0 =>
    subst h0
    have hd : (0 : Int) < den := by omega
    exact ⟨0, hasValue_withSign_zero f zeroNeg, nonpos_of_mul_nonpos_left h1 hd,
      nonneg_of_mul_nonneg_left h2 hd⟩
  · rw [← signed_natAbs n] at h1 h2
    exact between_fround hl hh _ hden h1 h2

end Bounds

section Operations

variable {f : Fmt} {x y lo hi : FReal} {v w l h : Int}

theorem between_fadd (hl : HasValue f lo l) (hh : HasValue f hi h) (hx : HasValue f x v) (hy : HasValue f y w)
    (h1 : l ≤ v + w) (h2 : v + w ≤ h) : Between f l h (fadd f x y) := by
  obtain ⟨a, m, hm, rfl⟩ := hx
  obtain ⟨b, n, hn, rfl⟩ := hy
  unfold fadd
  rw [hm, hn]
  exact between_roundInt hl hh _ Nat.one_pos (by omega) (by omega)

theorem between_fsub (hl : HasValue f lo l) (hh : HasValue f hi h) (hx : HasValue f x v) (hy : HasValue f y w)
    (h1 : l ≤ v - w) (h2 : v - w ≤ h) : Between f l h (fsub f x y) :=
  between_fadd hl hh hx hy.neg (by omega) (by omega)

theorem between_fmul (hl : HasValue f lo l) (hh : HasValue f hi h) (hx : HasValue f x v) (hy : HasValue f y w)
    (h1 : l * oneUnits f ≤ v * w) (h2 : v * w ≤ h * oneUnits f) : Between f l h (fmul f x y) := by
  obtain ⟨a, m, hm, rfl⟩ := hx
  obtain ⟨b, n, hn, rfl⟩ := hy
  rw [← signed_mul] at h1 h2
  unfold fmul
  rw [hm, hn]
  simp only
  split
  · next h0 =>
    have hs : signed (a != b) (m * n) = 0 := by rw [h0]; cases a != b <;> rfl
    rw [hs] at h1 h2
    exact ⟨0, hasValue_withSign_zero f _, nonpos_of_mul_nonpos_left h1 (oneUnits_pos f),
      nonneg_of_mul_nonneg_left h2 (oneUnits_pos f)⟩
  · have hcast : ((2 ^ scale f : Nat) : Int) = oneUnits f := by simp [oneUnits]
    exact between_fround hl hh _ (by positivity) (by rwa [hcast]) (by rwa [hcast])

end Operations

/-! ### The constants of the waveform function -/

theorem hasValue_fzero (f : Fmt) : HasValue f fzero 0 := by
  cases f <;> exact ⟨false, 0, by decide +kernel, rfl⟩

/-- The integers the waveform function is written with, and its bounds (R202). -/
def waveLiterals : List Int := [-1, 0, 1, 2, 3, 4]

/-- These integers are exact in both formats. -/
theorem hasValue_ofInt (f : Fmt) {k : Int} (hk : k ∈ waveLiterals) :
    HasValue f (ofInt f k) (k * oneUnits f) := by
  have hread : ∀ k ∈ waveLiterals,
      unpack f (ofInt f k) = .fin (decide (k * oneUnits f < 0)) (k * oneUnits f).natAbs := by
    cases f <;> decide +kernel
  exact ⟨_, _, hread k hk, signed_natAbs _⟩

theorem hasValue_fone (f : Fmt) : HasValue f (fone f) (oneUnits f) := by
  rw [← one_mul (oneUnits f)]
  exact hasValue_ofInt f (by decide)

theorem hasValue_minusOne (f : Fmt) : HasValue f (ofInt f (-1)) (-oneUnits f) := by
  rw [← neg_one_mul (oneUnits f)]
  exact hasValue_ofInt f (by decide)

theorem hasValue_fhalf (f : Fmt) : ∃ h, HasValue f (fhalf f) h ∧ 2 * h = oneUnits f := by
  refine ⟨_, ⟨false, 2 ^ (scale f - 1), ?_, rfl⟩, ?_⟩ <;> cases f <;> decide +kernel

/-! ### Values of [-1, 1] -/

theorem inUnit_iff {f : Fmt} {r : FReal} : inUnit f r = true ↔ Between f (-oneUnits f) (oneUnits f) r := by
  rw [between_iff_fle (hasValue_minusOne f) (hasValue_fone f), inUnit, Bool.and_eq_true]

theorem inUnit_of_hasValue {f : Fmt} {r : FReal} {v : Int} (hr : HasValue f r v) (h1 : -oneUnits f ≤ v)
    (h2 : v ≤ oneUnits f) : inUnit f r = true := inUnit_iff.mpr ⟨v, hr, h1, h2⟩

theorem inUnit_fone (f : Fmt) : inUnit f (fone f) = true := by
  have h := oneUnits_pos f
  exact inUnit_of_hasValue (hasValue_fone f) (by omega) le_rfl

theorem inUnit_minusOne (f : Fmt) : inUnit f (ofInt f (-1)) = true := by
  have h := oneUnits_pos f
  exact inUnit_of_hasValue (hasValue_minusOne f) le_rfl (by omega)

theorem inUnit_fneg {f : Fmt} {r : FReal} (h : inUnit f r = true) : inUnit f (fneg f r) = true := by
  obtain ⟨v, hv, h1, h2⟩ := inUnit_iff.mp h
  exact inUnit_of_hasValue hv.neg (by omega) (by omega)

theorem inUnit_of_feq_fzero {f : Fmt} {r : FReal} (h : feq f r fzero = true) : inUnit f r = true := by
  rw [feq, Bool.and_eq_true] at h
  obtain ⟨v, hv, h1, h2⟩ := (between_iff_fle (hasValue_fzero f) (hasValue_fzero f)).mpr h.symm
  have hone := oneUnits_pos f
  exact inUnit_of_hasValue hv (by omega) (by omega)

theorem inUnit_fsub {f : Fmt} {x y : FReal} {v w : Int} (hx : HasValue f x v) (hy : HasValue f y w)
    (h1 : -oneUnits f ≤ v - w) (h2 : v - w ≤ oneUnits f) : inUnit f (fsub f x y) = true :=
  inUnit_iff.mpr (between_fsub (hasValue_minusOne f) (hasValue_fone f) hx hy h1 h2)

/-- A phase in [0, 1) has a value there. -/
theorem exists_hasValue_phase {f : Fmt} {p : FReal} (h0 : fle f fzero p = true) (h1 : flt f p (fone f) = true) :
    ∃ v, HasValue f p v ∧ 0 ≤ v ∧ v < oneUnits f := by
  have hle : fle f p (fone f) = true := by rw [flt, Bool.and_eq_true] at h1; exact h1.1
  obtain ⟨v, hv, hge, -⟩ := (between_iff_fle (hasValue_fzero f) (hasValue_fone f)).mpr ⟨h0, hle⟩
  exact ⟨v, hv, hge, (hv.flt_iff (hasValue_fone f)).mp h1⟩

/-- The product with a literal, rounded, stays between two other literals. -/
theorem between_literal_mul {f : Fmt} {x : FReal} {v k l h : Int} (hk : k ∈ waveLiterals)
    (hl : l ∈ waveLiterals) (hh : h ∈ waveLiterals) (hx : HasValue f x v)
    (h1 : l * oneUnits f ≤ k * v) (h2 : k * v ≤ h * oneUnits f) :
    Between f (l * oneUnits f) (h * oneUnits f) (fmul f (ofInt f k) x) := by
  have hpos := (oneUnits_pos f).le
  have hassoc : k * oneUnits f * v = k * v * oneUnits f := by ring
  exact between_fmul (hasValue_ofInt f hl) (hasValue_ofInt f hh) (hasValue_ofInt f hk) hx
    (hassoc ▸ mul_le_mul_of_nonneg_right h1 hpos) (hassoc ▸ mul_le_mul_of_nonneg_right h2 hpos)

/-! ### The five waveforms (R202) -/

section Waveforms

variable {f : Fmt} {p : FReal} {v : Int}

/-- A rising edge: `k * p - 1` where `k * p` is in [0, 2]. -/
theorem inUnit_rising {k : Int} (hk : k ∈ waveLiterals) (hp : HasValue f p v) (h1 : 0 ≤ k * v)
    (h2 : k * v ≤ 2 * oneUnits f) : inUnit f (fsub f (fmul f (ofInt f k) p) (fone f)) = true := by
  obtain ⟨w, hw, hw1, hw2⟩ := between_literal_mul hk (l := 0) (h := 2) (by decide) (by decide) hp (by omega) h2
  exact inUnit_fsub hw (hasValue_fone f) (by omega) (by omega)

/-- The falling edge of the triangle: `3 - 4 * p` where `4 * p` is in [2, 4]. -/
theorem inUnit_falling (hp : HasValue f p v) (h1 : 2 * oneUnits f ≤ 4 * v) (h2 : 4 * v ≤ 4 * oneUnits f) :
    inUnit f (fsub f (ofInt f 3) (fmul f (ofInt f 4) p)) = true := by
  obtain ⟨w, hw, hw1, hw2⟩ :=
    between_literal_mul (k := 4) (l := 2) (h := 4) (by decide) (by decide) (by decide) hp h1 h2
  exact inUnit_fsub (hasValue_ofInt f (k := 3) (by decide)) hw (by omega) (by omega)

/-- `NUM.sin2pi` has the range [-1, 1] on the phases (R14). -/
theorem inUnit_numSin2pi (hp : HasValue f p v) (h0 : 0 ≤ v) (h1 : v < oneUnits f) :
    inUnit f (numSin2pi f p) = true := by
  obtain ⟨h, hh, htwo⟩ := hasValue_fhalf f
  unfold numSin2pi
  simp only
  split
  · exact inUnit_of_feq_fzero (within_holds (ok := fun r => feq f r fzero) _ (by cases f <;> decide +kernel))
  next hnotzero =>
  split
  · exact inUnit_fone f
  split
  · exact inUnit_minusOne f
  split
  · exact within_holds _ (inUnit_fzero f)
  next hupper =>
  split
  · exact inUnit_fneg (within_holds _ (inUnit_fzero f))
  next hlower =>
  simp only [Bool.or_eq_true, Bool.and_eq_true, hp.feq_iff (hasValue_fzero f), hp.feq_iff hh,
    (hasValue_fzero f).flt_iff hp, hp.flt_iff hh, hh.flt_iff hp, hp.flt_iff (hasValue_fone f)] at hnotzero hupper hlower
  omega

/-- Every waveform has its values in [-1, 1]. -/
theorem inUnit_waveValue {held : FReal} (hp : HasValue f p v) (h0 : 0 ≤ v) (h1 : v < oneUnits f)
    (hheld : inUnit f held = true) (tag : Waveform) : inUnit f (waveValue f tag p held) = true := by
  obtain ⟨h, hh, htwo⟩ := hasValue_fhalf f
  cases tag with
  | sine => exact inUnit_numSin2pi hp h0 h1
  | square =>
    unfold waveValue
    simp only
    split
    · exact inUnit_fone f
    · exact inUnit_minusOne f
  | sawtooth => exact inUnit_rising (by decide) hp (by omega) (by omega)
  | triangle =>
    unfold waveValue
    simp only [hp.flt_iff hh]
    split
    · exact inUnit_rising (by decide) hp (by omega) (by omega)
    · exact inUnit_falling hp (by omega) (by omega)
  | noise => exact hheld

end Waveforms

/-! ### The commands of one oscillator (R207 to R211) -/

theorem finiteOperand_eq_ok {f : Fmt} {r : FReal} (h : isFinite f r = true) : finiteOperand f r = .ok r := if_pos h

/-- Of the eight tags the last three are no waveform (R211). -/
theorem waveformOf_eq_none_iff : ∀ tag : BitVec 3, waveformOf tag = none ↔ 4 < tag.toNat := by decide

section Commands

variable {s : State} {v : Byte} {vc : Voice}

theorem exec_oscrst (h : s.hasVoice v vc) :
    exec (.oscrst v) s = .next (s.withVoice v { vc with osc := { vc.osc with phase := 0 } }) := by
  unfold exec
  exact voiceCommand_quiet h rfl

theorem exec_oscnote {n : BitVec 16} (h : s.hasVoice v vc) (hfin : isFinite s.cfg.fmt (noteFreq s.cfg.fmt n) = true) :
    exec (.oscnote v n) s = .next
      (s.withVoice v { vc with osc := { vc.osc with freq := ⟨noteFreq s.cfg.fmt n, true⟩ } }) := by
  unfold exec
  exact voiceCommand_quiet h (if_pos hfin)

theorem exec_oscnote_overflow {n : BitVec 16} (h : s.hasVoice v vc)
    (hinf : isFinite s.cfg.fmt (noteFreq s.cfg.fmt n) = false) :
    exec (.oscnote v n) s = .next (s.audioFault .badparam) := by
  unfold exec
  exact voiceCommand_error h (if_neg (by simp [hinf]))

theorem exec_oscfreq {r : FReal} (h : s.hasVoice v vc) (hfin : isFinite s.cfg.fmt r = true) :
    exec (.oscfreq v r) s = .next (s.withVoice v { vc with osc := { vc.osc with freq := ⟨r, true⟩ } }) := by
  unfold exec
  exact voiceCommand_quiet h (by rw [finiteOperand_eq_ok hfin]; rfl)

theorem exec_oscdet {r : FReal} (h : s.hasVoice v vc) (hfin : isFinite s.cfg.fmt r = true) :
    exec (.oscdet v r) s = .next (s.withVoice v { vc with osc := { vc.osc with detune := ⟨r, true⟩ } }) := by
  unfold exec
  exact voiceCommand_quiet h (by rw [finiteOperand_eq_ok hfin]; rfl)

theorem exec_oscwave {tag : BitVec 3} {w : Waveform} (h : s.hasVoice v vc) (hw : waveformOf tag = some w) :
    exec (.oscwave v tag) s = .next (s.withVoice v { vc with osc := { vc.osc with wave := ⟨w, true⟩ } }) := by
  unfold exec
  exact voiceCommand_quiet h (by rw [hw]; rfl)

theorem exec_oscwave_noWaveform {tag : BitVec 3} (h : s.hasVoice v vc) (hw : waveformOf tag = none) :
    exec (.oscwave v tag) s = .next (s.audioFault .badparam) := by
  unfold exec
  exact voiceCommand_error h (by rw [hw])

end Commands

end Sys2Proof.Machine

namespace Sys2Proof.Proofs

open Sys2Proof Sys2Proof.Machine

/-- Settles O47: each waveform is its line of the table; the bounds of the arithmetic are values of the format,
which rounding never passes. -/
theorem waveformValues : Obligations.WaveformValues := by
  intro f p held
  refine ⟨rfl, fun hlt => ⟨if_pos hlt, if_pos hlt⟩, fun hge => ⟨if_neg ?_, if_neg ?_⟩, rfl, rfl,
    fun h0 h1 hheld tag => ?_⟩
  · simp [hge]
  · simp [hge]
  · obtain ⟨v, hv, hge, hlt⟩ := exists_hasValue_phase h0 h1
    exact inUnit_waveValue hv hge hlt hheld tag

/-- Settles O48: each command has one equation per outcome. -/
theorem oscillatorCommands : Obligations.OscillatorCommands := fun _ _ _ h =>
  ⟨exec_oscrst h, fun _ => ⟨exec_oscnote h, exec_oscnote_overflow h⟩,
    fun _ hr => ⟨exec_oscfreq h hr, exec_oscdet h hr⟩,
    fun _ => ⟨fun _ => exec_oscwave h, fun ht => exec_oscwave_noWaveform h ((waveformOf_eq_none_iff _).mpr ht)⟩, rfl⟩

end Sys2Proof.Proofs
end

section
/-! PROOFS of the statement on the envelope commands (`spec/44_envelope.md`). No command here responds, so each is one
voice's replacement or one fault. -/

namespace Sys2Proof.Machine

/-- Putting back the voice that stands there changes nothing. -/
theorem State.withVoice_self {s : State} {v : Byte} {vc : Voice} (h : s.audio.voices[v.toNat]? = some vc) :
    s.withVoice v vc = s := by
  obtain ⟨hlt, rfl⟩ := List.getElem?_eq_some_iff.mp h
  simp [State.withVoice]

section EnvelopeCommands

variable {s : State} {v : Byte} {vc : Voice}

theorem exec_envon (h : s.hasVoice v vc) :
    exec (.envon v) s = .next (s.withVoice v { vc with env := { vc.env with stage := .attack } }) := by
  unfold exec
  exact voiceCommand_quiet h rfl

theorem exec_envoff (h : s.hasVoice v vc) (hstage : vc.env.stage ≠ .idle) :
    exec (.envoff v) s = .next
      (s.withVoice v { vc with env := { vc.env with relstart := vc.env.value, stage := .release } }) := by
  unfold exec
  exact voiceCommand_quiet h (if_neg hstage)

/-- ENVOFF in Idle writes the voice back as it is. -/
theorem exec_envoff_idle (h : s.hasVoice v vc) (hstage : vc.env.stage = .idle) :
    exec (.envoff v) s = .next s := by
  unfold exec
  exact (voiceCommand_quiet h (if_pos hstage)).trans (congrArg _ (State.withVoice_self h.2))

theorem exec_envrst (h : s.hasVoice v vc) :
    exec (.envrst v) s = .next (s.withVoice v { vc with env := { vc.env with stage := .idle, value := 0 } }) := by
  unfold exec
  exact voiceCommand_quiet h rfl

section SetCommands

variable {r : FReal}

theorem exec_envatk (h : s.hasVoice v vc) (hfin : isFinite s.cfg.fmt r = true) :
    exec (.envatk v r) s = .next (s.withVoice v { vc with env := { vc.env with attack := ⟨r, true⟩ } }) := by
  unfold exec
  exact voiceCommand_quiet h (by rw [finiteOperand_eq_ok hfin]; rfl)

theorem exec_envdec (h : s.hasVoice v vc) (hfin : isFinite s.cfg.fmt r = true) :
    exec (.envdec v r) s = .next (s.withVoice v { vc with env := { vc.env with decay := ⟨r, true⟩ } }) := by
  unfold exec
  exact voiceCommand_quiet h (by rw [finiteOperand_eq_ok hfin]; rfl)

theorem exec_envrel (h : s.hasVoice v vc) (hfin : isFinite s.cfg.fmt r = true) :
    exec (.envrel v r) s = .next (s.withVoice v { vc with env := { vc.env with release := ⟨r, true⟩ } }) := by
  unfold exec
  exact voiceCommand_quiet h (by rw [finiteOperand_eq_ok hfin]; rfl)

theorem exec_envsus (h : s.hasVoice v vc) (hfin : isFinite s.cfg.fmt r = true)
    (hlevel : inZeroOne s.cfg.fmt r = true) :
    exec (.envsus v r) s = .next (s.withVoice v { vc with env := { vc.env with sustain := ⟨r, true⟩ } }) := by
  unfold exec
  exact voiceCommand_quiet h (by rw [finiteOperand_eq_ok hfin]; exact if_pos hlevel)

/-- A finite level outside [0, 1] is BADPARAM (R227). -/
theorem exec_envsus_outside (h : s.hasVoice v vc) (hfin : isFinite s.cfg.fmt r = true)
    (hlevel : inZeroOne s.cfg.fmt r = false) :
    exec (.envsus v r) s = .next (s.audioFault .badparam) := by
  unfold exec
  exact voiceCommand_error h (by rw [finiteOperand_eq_ok hfin]; exact if_neg (by simp [hlevel]))

end SetCommands

end EnvelopeCommands

end Sys2Proof.Machine

namespace Sys2Proof.Proofs

open Sys2Proof Sys2Proof.Machine

/-- Settles O50: each command has one equation per outcome. -/
theorem envelopeCommands : Obligations.EnvelopeCommands := fun _ _ _ h =>
  ⟨exec_envon h, exec_envoff h, exec_envoff_idle h, exec_envrst h, fun _ hr =>
    ⟨exec_envatk h hr, exec_envdec h hr, exec_envrel h hr, exec_envsus h hr, exec_envsus_outside h hr⟩⟩

end Sys2Proof.Proofs
end

section
/-! PROOFS of the statements on the filter commands (`spec/45_biquad.md`). FLTPROC has two parts: the refresh of the
coefficients, with three outcomes and the delay line kept, and the difference equation on the registers the refresh
leaves. -/

namespace Sys2Proof.Machine

section Process

variable {c : Config} {fl new : Filter}

/-! ### The refresh of the coefficients (R247) -/

theorem Param.rd_written {α : Type} {p : Param α} (h : p.written = true) : p.rd = .ok p.value := if_pos h

theorem Filter.design_written (hw : (fl.ftype.written && fl.cutoff.written && fl.res.written) = true) :
    fl.design c = .ok (fl.coefficients c fl.ftype.value fl.cutoff.value fl.res.value) := by
  simp only [Bool.and_eq_true] at hw
  obtain ⟨⟨hty, hcut⟩, hres⟩ := hw
  simp only [Filter.design, Param.rd_written hty, Param.rd_written hcut, Param.rd_written hres]

/-- A parameter that reads is written, so with one unwritten the three do not all read. -/
theorem Filter.design_unwritten (hw : (fl.ftype.written && fl.cutoff.written && fl.res.written) = false) :
    fl.design c = .error .uninit := by
  unfold Filter.design
  split
  · next hty hcut hres => simp [(Param.rd_ok hty).1, (Param.rd_ok hcut).1, (Param.rd_ok hres).1] at hw
  · rfl

theorem Filter.refresh_held (hd : fl.dirty = false) : fl.refresh c = .ok fl := if_neg (by simp [hd])

theorem Filter.refresh_designed (hd : fl.dirty = true)
    (hw : (fl.ftype.written && fl.cutoff.written && fl.res.written) = true) :
    fl.refresh c =
      .ok { fl.coefficients c fl.ftype.value fl.cutoff.value fl.res.value with dirty := false } := by
  simp only [Filter.refresh, if_pos hd, Filter.design_written hw]

theorem Filter.refresh_unwritten (hd : fl.dirty = true)
    (hw : (fl.ftype.written && fl.cutoff.written && fl.res.written) = false) :
    fl.refresh c = .error .uninit := by
  simp only [Filter.refresh, if_pos hd, Filter.design_unwritten hw]

/-! ### The difference equation on refreshed registers (R242) -/

theorem Filter.process_refreshError {x : FReal} {k : Cause} (hr : fl.refresh c = .error k) :
    fl.process c x = .error k := by
  simp only [Filter.process, hr]

theorem Filter.process_finite {x : FReal} (hr : fl.refresh c = .ok new)
    (hy : isFinite c.fmt (new.output c.fmt x) = true) :
    fl.process c x =
      .ok (new.output c.fmt x, { new with x1 := x, x2 := new.x1, y1 := new.output c.fmt x, y2 := new.y1 }) := by
  simp only [Filter.process, hr, if_pos hy]

theorem Filter.process_notFinite {x : FReal} (hr : fl.refresh c = .ok new)
    (hy : isFinite c.fmt (new.output c.fmt x) = false) : fl.process c x = .error .badparam := by
  simp only [Filter.process, hr, hy, Bool.false_eq_true, if_false]

end Process

section FilterCommands

variable {s : State} {v : Byte} {vc : Voice}

/-! ### FLTPROC -/

theorem exec_fltproc {x y : FReal} {fl : Filter} (h : s.hasVoice v vc) (hx : isFinite s.cfg.fmt x = true)
    (hp : vc.flt.process s.cfg x = .ok (y, fl)) :
    exec (.fltproc v x) s = .next ((s.withVoice v { vc with flt := fl }).withArsp y) := by
  unfold exec
  exact voiceCommand_responds (n := 0) h (by simp only [finiteOperand_eq_ok hx, hp])

theorem exec_fltproc_error {x : FReal} {k : Cause} (h : s.hasVoice v vc) (hx : isFinite s.cfg.fmt x = true)
    (hp : vc.flt.process s.cfg x = .error k) : exec (.fltproc v x) s = .next (s.audioFault k) := by
  unfold exec
  exact voiceCommand_error h (by simp only [finiteOperand_eq_ok hx, hp])

/-- Once the coefficients are there, the output decides: a finite one is responded and shifted in. -/
theorem exec_fltproc_refreshed {x : FReal} {fl : Filter} (h : s.hasVoice v vc) (hx : isFinite s.cfg.fmt x = true)
    (hr : vc.flt.refresh s.cfg = .ok fl) :
    (isFinite s.cfg.fmt (fl.output s.cfg.fmt x) = true →
      exec (.fltproc v x) s = .next
        ((s.withVoice v
          { vc with
            flt := { fl with x1 := x, x2 := fl.x1, y1 := fl.output s.cfg.fmt x, y2 := fl.y1 } }).withArsp
          (fl.output s.cfg.fmt x))) ∧
    (isFinite s.cfg.fmt (fl.output s.cfg.fmt x) = false →
      exec (.fltproc v x) s = .next (s.audioFault .badparam)) :=
  ⟨fun hy => exec_fltproc h hx (Filter.process_finite hr hy),
    fun hy => exec_fltproc_error h hx (Filter.process_notFinite hr hy)⟩

/-! ### The commands that write registers (R243 to R246) -/

theorem exec_fltrst (h : s.hasVoice v vc) :
    exec (.fltrst v) s = .next
      (s.withVoice v { vc with flt := { vc.flt with x1 := 0, x2 := 0, y1 := 0, y2 := 0 } }) := by
  unfold exec
  exact voiceCommand_quiet h rfl

theorem exec_flttype {ty : BitVec 2} {k : FilterType} (h : s.hasVoice v vc) (hk : filterTypeOf ty = some k) :
    exec (.flttype v ty) s = .next
      (s.withVoice v { vc with flt := { vc.flt with ftype := ⟨k, true⟩, dirty := true } }) := by
  unfold exec
  exact voiceCommand_quiet h (by rw [hk]; rfl)

theorem exec_flttype_noType {ty : BitVec 2} (h : s.hasVoice v vc) (hk : filterTypeOf ty = none) :
    exec (.flttype v ty) s = .next (s.audioFault .badparam) := by
  unfold exec
  exact voiceCommand_error h (by rw [hk])

theorem exec_fltcut {r : FReal} (h : s.hasVoice v vc) (hfin : isFinite s.cfg.fmt r = true) :
    exec (.fltcut v r) s = .next
      (s.withVoice v { vc with flt := { vc.flt with cutoff := ⟨r, true⟩, dirty := true } }) := by
  unfold exec
  exact voiceCommand_quiet h (by rw [finiteOperand_eq_ok hfin]; rfl)

theorem exec_fltres {r : FReal} (h : s.hasVoice v vc) (hfin : isFinite s.cfg.fmt r = true) :
    exec (.fltres v r) s = .next
      (s.withVoice v { vc with flt := { vc.flt with res := ⟨r, true⟩, dirty := true } }) := by
  unfold exec
  exact voiceCommand_quiet h (by rw [finiteOperand_eq_ok hfin]; rfl)

end FilterCommands

end Sys2Proof.Machine

namespace Sys2Proof.Proofs

open Sys2Proof Sys2Proof.Machine

/-- Settles O51: held or designed, the coefficients come with the old delay line, which neither the design nor the
clearing of `DIRTY` writes, so the difference equation and the shift are on the old delay values. -/
theorem fltprocFilters : Obligations.FltprocFilters := by
  intro s v vc x h hx
  refine ⟨fun hd hw => exec_fltproc_error h hx (Filter.process_refreshError (Filter.refresh_unwritten hd hw)),
    fun fl hfl => ?_⟩
  rcases hfl with ⟨hd, rfl⟩ | ⟨hd, hw, rfl⟩
  · exact exec_fltproc_refreshed h hx (Filter.refresh_held hd)
  · exact exec_fltproc_refreshed h hx (Filter.refresh_designed hd hw)

/-- Settles O53: each command has one equation per outcome. -/
theorem filterCommands : Obligations.FilterCommands := fun _ _ _ h =>
  ⟨exec_fltrst h,
    fun _ => ⟨fun _ => exec_flttype h, fun hty => exec_flttype_noType h (by rw [hty]; rfl)⟩, rfl,
    fun _ hr => ⟨exec_fltcut h hr, exec_fltres h hr⟩⟩

end Sys2Proof.Proofs
end

section
/-! PROOFS of the statements on the voice chain and the callback adapter (`spec/46_audio_callback.md`). VOICE: a
command that responds leaves a voice for the next one, so the three commands run one after another. The adapter: one
equation per packet and outcome, and what PULL leaves of the audio domain in each mode. -/

namespace Sys2Proof.Machine

/-! ### A voice after a command that responded (R112) -/

theorem State.hasVoice_withVoice {s : State} {v : Byte} {vc : Voice} (h : s.hasVoice v vc) (vc' : Voice) :
    (s.withVoice v vc').hasVoice v vc' := by
  obtain ⟨hruns, hvoice⟩ := h
  obtain ⟨hlt, -⟩ := List.getElem?_eq_some_iff.mp hvoice
  exact ⟨hruns, by simp [State.withVoice, hlt]⟩

theorem State.hasVoice_withArsp {s : State} {v : Byte} {vc : Voice} (h : s.hasVoice v vc) (r : FReal) :
    (s.withArsp r).hasVoice v vc := h

/-! ### VOICE on the registers (R261) -/

section Chain

variable {c : Config} {vc : Voice} {draw x y : FReal} {o : Osc} {w : Bool} {fl : Filter} {e : Env} {k : Cause}

theorem Voice.next_ok (ho : vc.osc.next c draw = .ok (x, o, w)) (hx : isFinite c.fmt x = true)
    (hf : vc.flt.process c x = .ok (y, fl)) (he : vc.env.next c = .ok e) :
    vc.next c draw = .ok ⟨⟨o, e, fl⟩, if w then 1 else 0, some (fmul c.fmt y e.value)⟩ := by
  simp only [Voice.next, ho, finiteOperand_eq_ok hx, hf, he]

theorem Voice.next_oscError (ho : vc.osc.next c draw = .error k) : vc.next c draw = .error k := by
  simp only [Voice.next, ho]

theorem Voice.next_fltError (ho : vc.osc.next c draw = .ok (x, o, w)) (hx : isFinite c.fmt x = true)
    (hf : vc.flt.process c x = .error k) : vc.next c draw = .error k := by
  simp only [Voice.next, ho, finiteOperand_eq_ok hx, hf]

theorem Voice.next_envError (ho : vc.osc.next c draw = .ok (x, o, w)) (hx : isFinite c.fmt x = true)
    (hf : vc.flt.process c x = .ok (y, fl)) (he : vc.env.next c = .error k) : vc.next c draw = .error k := by
  simp only [Voice.next, ho, finiteOperand_eq_ok hx, hf, he]

end Chain

/-! ### The commands of the chain (R203, R221, R261) -/

section ChainCommands

variable {s : State} {v : Byte} {vc : Voice}

theorem exec_oscnext {x : FReal} {o : Osc} {w : Bool} (h : s.hasVoice v vc)
    (ho : vc.osc.next s.cfg (drawNoise s.cfg.fmt s.audio.draws) = .ok (x, o, w)) :
    exec (.oscnext v) s = .next
      ((({ s with
            audio := { s.audio with draws := s.audio.draws + if w then 1 else 0 } } : State).withVoice v
          { vc with osc := o }).withArsp x) := by
  unfold exec
  exact voiceCommand_responds h (by simp only [ho])

theorem exec_envnext {e : Env} (h : s.hasVoice v vc) (he : vc.env.next s.cfg = .ok e) :
    exec (.envnext v) s = .next ((s.withVoice v { vc with env := e }).withArsp e.value) := by
  unfold exec
  exact voiceCommand_responds (n := 0) h (by simp only [he])

theorem exec_voice {vc' : Voice} {n : Nat} {r : FReal} (h : s.hasVoice v vc)
    (hn : vc.next s.cfg (drawNoise s.cfg.fmt s.audio.draws) = .ok ⟨vc', n, some r⟩) :
    exec (.voice v) s = .next
      ((({ s with audio := { s.audio with draws := s.audio.draws + n } } : State).withVoice v vc').withArsp r) := by
  unfold exec
  exact voiceCommand_responds h hn

theorem exec_voice_error {k : Cause} (h : s.hasVoice v vc)
    (hn : vc.next s.cfg (drawNoise s.cfg.fmt s.audio.draws) = .error k) :
    exec (.voice v) s = .next (s.audioFault k) := by
  unfold exec
  exact voiceCommand_error h hn

end ChainCommands

/-! ### The producer packets (R262 to R265) -/

theorem AudioState.windowOpen_iff {c : Config} {a : AudioState} :
    a.windowOpen c = true ↔ c.audioMode = .inline ∧ a.fillActive = true := by simp [AudioState.windowOpen]

theorem State.windowOpen_ne_false {s : State} (h : s.fillOpen) : s.audio.windowOpen s.cfg ≠ false := by
  simpa using AudioState.windowOpen_iff.mpr h.2

theorem AudioState.windowOpen_eq_false {c : Config} {a : AudioState}
    (h : ¬(c.audioMode = .inline ∧ a.fillActive = true)) : a.windowOpen c = false :=
  Bool.eq_false_iff.mpr fun ho => h (windowOpen_iff.mp ho)

section ProducerPackets

variable {s : State} {slot : BitVec 16} {x : Sample}

theorem exec_spanwr (h : s.fillOpen) (hslot : slot < s.audio.fillN) :
    exec (.spanwr slot x) s = .next
      { s with audio := { s.audio with span := s.audio.span.set slot.toNat x } } := by
  unfold exec
  exact audioCommand_ok h.1 ((if_neg (State.windowOpen_ne_false h)).trans (if_neg (BitVec.not_le.mpr hslot)))

theorem exec_spanwr_pastRequest (h : s.fillOpen) (hslot : s.audio.fillN ≤ slot) :
    exec (.spanwr slot x) s = .next (s.audioFault .badparam) := by
  unfold exec
  exact audioCommand_error h.1 ((if_neg (State.windowOpen_ne_false h)).trans (if_pos hslot))

theorem exec_spanwr_noWindow (h : s.audioRuns) (hw : s.audio.windowOpen s.cfg = false) :
    exec (.spanwr slot x) s = .next (s.audioFault .access) := by
  unfold exec
  exact audioCommand_error h (if_pos hw)

theorem exec_fillret (h : s.fillOpen) (err : Bool) :
    exec (.fillret err) s = .next { s with audio := s.audio.fillReturn err } := by
  unfold exec
  exact audioCommand_ok h.1 (if_neg (State.windowOpen_ne_false h))

theorem exec_fillret_noWindow (h : s.audioRuns) (hw : s.audio.windowOpen s.cfg = false) (err : Bool) :
    exec (.fillret err) s = .next (s.audioFault .access) := by
  unfold exec
  exact audioCommand_error h (if_pos hw)

theorem exec_abufwr (h : s.audioRuns) (hm : s.cfg.audioMode = .buffered) (hr : s.audio.aready = false)
    (hslot : slot.toNat < s.cfg.abufSize) :
    exec (.abufwr slot x) s = .next
      { s with audio := s.audio.setAbufBack (memWrite 0 s.audio.abufBack slot.toNat x) } := by
  unfold exec
  exact audioCommand_ok h (by simp [hm, hr, hslot])

theorem exec_abufwr_notOwned (h : s.audioRuns) (hm : s.cfg.audioMode = .buffered) (hr : s.audio.aready = true) :
    exec (.abufwr slot x) s = .next (s.audioFault .ownership) := by
  unfold exec
  exact audioCommand_error h (by simp [hm, hr])

theorem exec_abufwr_pastEnd (h : s.audioRuns) (hm : s.cfg.audioMode = .buffered) (hr : s.audio.aready = false)
    (hslot : s.cfg.abufSize ≤ slot.toNat) :
    exec (.abufwr slot x) s = .next (s.audioFault .badparam) := by
  unfold exec
  exact audioCommand_error h (by simp [hm, hr, hslot])

theorem exec_abufwr_inline (h : s.audioRuns) (hm : s.cfg.audioMode = .inline) :
    exec (.abufwr slot x) s = .next (s.audioFault .access) := by
  unfold exec
  exact audioCommand_error h (if_pos (by simp [hm]))

theorem exec_abufrdy (h : s.audioRuns) (hm : s.cfg.audioMode = .buffered) :
    exec .abufrdy s = .next { s with audio := { s.audio with aready := true } } := by
  unfold exec
  exact audioCommand_ok h (if_neg (by simp [hm]))

theorem exec_abufrdy_inline (h : s.audioRuns) (hm : s.cfg.audioMode = .inline) :
    exec .abufrdy s = .next (s.audioFault .access) := by
  unfold exec
  exact audioCommand_error h (if_pos (by simp [hm]))

end ProducerPackets

/-- The frame of a write to the back array (R85). -/
theorem State.onlyBackSamples_setAbufBack (s : State) (m : List (Nat × Sample)) :
    s.onlyBackSamples { s with audio := s.audio.setAbufBack m } := by
  refine ⟨?_, fun i => by simp [AudioState.frontSample]⟩
  unfold AudioState.setAbufBack
  split <;> rfl

/-! ### What the adapter delivers (R263, R267 to R269) -/

/-- Loading the span and delivering it: the event carries what was loaded. -/
theorem AudioState.deliver_loadSpan (a : AudioState) (n : Nat) (g : Nat → Sample) :
    (a.loadSpan n g).deliver n =
      { a with
        span := (List.range n).map g ++ a.span.drop n
        events := a.events ++ [.deliver ((List.range n).map g)] } := by
  rw [AudioState.deliver, AudioState.spanList_loadSpan]
  rfl

/-- Silence is a span loaded with zeros. -/
theorem AudioState.deliver_loadSpan_zero (a : AudioState) (n : Nat) :
    (a.loadSpan n fun _ => 0).deliver n =
      { a with
        span := List.replicate n 0 ++ a.span.drop n
        events := a.events ++ [.deliver (List.replicate n 0)] } := by
  simp [AudioState.deliver_loadSpan]

theorem AudioState.fillReturn_err (a : AudioState) :
    a.fillReturn true =
      { a with
        fillActive := false
        span := List.replicate a.fillN.toNat 0 ++ a.span.drop a.fillN.toNat
        events := a.events ++ [.deliver (List.replicate a.fillN.toNat 0)] } := by
  simp only [AudioState.fillReturn, if_true, AudioState.deliver_loadSpan_zero]

/-- The swap brings the back array to the front. -/
theorem AudioState.frontSample_swapRoles (a : AudioState) : a.swapRoles.frontSample = a.backSample := by
  funext i
  cases h : a.asel <;> simp [AudioState.frontSample, AudioState.backSample, abufFront, abufBack, h]

theorem AudioState.bufferedPull_ready {a : AudioState} (hr : a.aready = true) (n : BitVec 16) :
    a.bufferedPull n =
      { a with
        fillN := n
        asel := !a.asel
        aready := false
        span := (List.range n.toNat).map a.backSample ++ a.span.drop n.toNat
        events := a.events ++ [.deliver ((List.range n.toNat).map a.backSample), .prodreq] } := by
  have hfront : ({ a with fillN := n } : AudioState).swapRoles.frontSample = a.backSample :=
    AudioState.frontSample_swapRoles _
  simp only [AudioState.bufferedPull, if_pos hr, AudioState.deliver_loadSpan, hfront]
  simp [AudioState.emit, AudioState.swapRoles]

theorem AudioState.bufferedPull_notReady {a : AudioState} (hr : a.aready = false) (n : BitVec 16) :
    a.bufferedPull n =
      { a with
        fillN := n
        span := List.replicate n.toNat 0 ++ a.span.drop n.toNat
        events := a.events ++ [.deliver (List.replicate n.toNat 0)] } := by
  simp only [AudioState.bufferedPull, hr, Bool.false_eq_true, if_false, AudioState.deliver_loadSpan_zero]

/-! ### PULL (R266 to R268) -/

section Pull

variable {s : State} {n : BitVec 16}

theorem exec_pull_inline (h : s.audioRuns) (hn : n.toNat ≤ s.cfg.abufSize) (hm : s.cfg.audioMode = .inline)
    (ha : s.audio.fillActive = false) :
    exec (.pull n) s = .next { s with audio := s.audio.enterFill n } := by
  unfold exec
  simp [execPull, h.1, h.2, hn, hm, ha]

theorem exec_pull_buffered (h : s.audioRuns) (hn : n.toNat ≤ s.cfg.abufSize)
    (hm : s.cfg.audioMode = .buffered) :
    exec (.pull n) s = .next { s with audio := s.audio.bufferedPull n } := by
  unfold exec
  simp [execPull, h.1, h.2, hn, hm]

end Pull

/-- Above the request the opened window leaves the span as it was. -/
theorem AudioState.enterFill_span_above (a : AudioState) {n : BitVec 16} {i : Nat} (h : n.toNat ≤ i) :
    (a.enterFill n).span[i]? = a.span[i]? := by
  simp [AudioState.enterFill, List.getElem?_append_right, h]

end Sys2Proof.Machine

namespace Sys2Proof.Proofs

open Sys2Proof Sys2Proof.Machine

/-- Settles O55: each command of the chain finds the voice the one before it left, and the three writes of the voice
are one; a fault of a part is the fault of the chain on the registers. -/
theorem voiceIsTheChain : Obligations.VoiceIsTheChain := by
  intro s v vc h
  refine ⟨fun x o w y fl e ho hx hf he => ?_, fun k ho => exec_voice_error h (Voice.next_oscError ho),
    fun k x o w ho hx hf => exec_voice_error h (Voice.next_fltError ho hx hf),
    fun k x o w y fl ho hx hf he => exec_voice_error h (Voice.next_envError ho hx hf he)⟩
  have h0 : ({ s with
      audio := { s.audio with draws := s.audio.draws + if w then 1 else 0 } } : State).hasVoice v vc := h
  have h1 := State.hasVoice_withArsp (State.hasVoice_withVoice h0 { vc with osc := o }) x
  have h2 := State.hasVoice_withArsp (State.hasVoice_withVoice h1 { vc with osc := o, flt := fl }) y
  have h3 := State.hasVoice_withArsp (State.hasVoice_withVoice h2 ⟨o, e, fl⟩) e.value
  refine ⟨_, _, _, exec_oscnext h ho, exec_fltproc h1 hx hf, exec_envnext h2 he, rfl, h3.2, rfl, ?_⟩
  rw [exec_voice h (Voice.next_ok ho hx hf he)]
  simp [State.withVoice, State.withArsp]

/-- Settles O56: each packet has one equation per outcome; the error return delivers the zeros it loads. -/
theorem fillWindow : Obligations.FillWindow := fun _ _ _ =>
  ⟨exec_spanwr, exec_spanwr_pastRequest, fun h => exec_fillret h false,
    fun h => by rw [exec_fillret h, AudioState.fillReturn_err],
    fun h hclosed =>
      have hw := AudioState.windowOpen_eq_false hclosed
      ⟨exec_spanwr_noWindow h hw, exec_fillret_noWindow h hw⟩⟩

/-- Settles O57: a write of the back array leaves the front as it is, and a read of it is the law of the
memories. -/
theorem backArrayHandoff : Obligations.BackArrayHandoff := fun s _ _ h =>
  ⟨fun hm hr hslot => ⟨_, exec_abufwr h hm hr hslot, s.onlyBackSamples_setAbufBack _,
      fun i => by simp [AudioState.backSample, memRead_write]⟩,
    exec_abufwr_notOwned h, exec_abufwr_pastEnd h, exec_abufrdy h,
    fun hm => ⟨exec_abufwr_inline h hm, exec_abufrdy_inline h hm⟩⟩

/-- Settles O58: the answer of each mode, as a state. -/
theorem pullIsAnswered : Obligations.PullIsAnswered := fun s n h hn =>
  ⟨fun hm ha => ⟨_, exec_pull_inline h hn hm ha, rfl, fun _ => s.audio.enterFill_span_above⟩,
    fun hm hr => by rw [exec_pull_buffered h hn hm, AudioState.bufferedPull_ready hr],
    fun hm hr => by rw [exec_pull_buffered h hn hm, AudioState.bufferedPull_notReady hr]⟩

end Sys2Proof.Proofs
end

section
/-! PROOFS, the layer under the statements on every step: what an instruction makes of the video domain, and what a
step does, each said once as a relation with one constructor per case. -/

namespace Sys2Proof.Machine

/-! ### What an instruction makes of the video domain (R130 to R186, R291) -/

/-- The video domain after instruction `i`, with what each case needs to have happened. -/
inductive VideoEffect (c : Config) (i : Instr) (v : VideoState) : VideoState → Prop where
  | keep : VideoEffect c i v v
  | refused (cl : VClass) (k : Cause) (unfaulted : v.fault.valid = false) (column : vclassOf i = some cl)
      (refuses : v.phase.right cl = .refused k) : VideoEffect c i v (v.raise k)
  | badOperand (k : Cause) (unfaulted : v.fault.valid = false) (cause : k = .badparam ∨ k = .ubRange) :
      VideoEffect c i v (v.raise k)
  | setPixel (o : Nat) (idx : Byte) (inside : o < c.w * c.h) : VideoEffect c i v (v.setPixel o idx)
  | drawShape (shape : Int → Int → Option Byte) : VideoEffect c i v (v.drawShape c shape)
  | setEntry (k : Byte) (color : RGB) : VideoEffect c i v (v.setEntry k.toNat color)
  | paintPalette (p : Nat → Option RGB) : VideoEffect c i v (v.paintPalette p)
  | respond (w : Word) : VideoEffect c i v (v.respond w)
  | flipRoles : VideoEffect c i v v.flipRoles
  | commitRoles : VideoEffect c i v v.commitRoles
  | run (tpf : BitVec 64) (period : tpf.toNat ≤ c.tickHz) (before : v.phase = .stopped) :
      VideoEffect c i v { v with tpf := tpf, deadline := v.now }.enterFrame
  | hookReturn : VideoEffect c i v (v.hookReturn c)
  | seqFlip (before : v.phase = .flip) : VideoEffect c i v { v.flipRoles with phase := .commit }
  | seqCommit (before : v.phase = .commit) : VideoEffect c i v { v.commitRoles with phase := .present }
  | seqPresent (fb : List Byte) (pal : List RGB) (before : v.phase = .present) :
      VideoEffect c i v { v.emit (.present fb pal) with phase := .pace }
  | seqPace (before : v.phase = .pace) (due : v.paceEnabled = true) :
      VideoEffect c i v { v with deadline := BitVec.ofNat 64 v.nextDeadline }.enterFrame

/-- A VCMD packet has the effect of its pseudocode, where the phase accepts it. -/
theorem videoCommand_effect {i : Instr} {cl : VClass} {s t : State} {body : VideoState → Except Cause VideoState}
    (hi : vclassOf i = some cl)
    (hok : ∀ v, s.video.phase.right cl = .accepted → body s.video = .ok v → VideoEffect s.cfg i s.video v)
    (herr : ∀ k, body s.video = .error k → k = .badparam ∨ k = .ubRange)
    (h : videoCommand cl s body = .next t) : VideoEffect s.cfg i s.video t.video := by
  cases hf : s.video.fault.valid with
  | true =>
    simp only [videoCommand, hf, if_true] at h
    cases h
    exact .keep
  | false =>
    rcases videoCommand_cases h with rfl | ⟨k, hr, rfl⟩ | ⟨-, hr, ⟨v, hv, rfl⟩ | ⟨k, hk, rfl⟩⟩
    · exact .keep
    · exact .refused cl k hf hi hr
    · exact hok v hr hv
    · exact .badOperand k hf (herr k hk)

/-- A packet whose pseudocode cannot fault. -/
theorem videoCommand_effect_ok {i : Instr} {cl : VClass} {s t : State} {body : VideoState → VideoState}
    (hi : vclassOf i = some cl) (hok : VideoEffect s.cfg i s.video (body s.video))
    (h : videoCommand cl s (fun v => .ok (body v)) = .next t) : VideoEffect s.cfg i s.video t.video :=
  videoCommand_effect hi (by rintro v - ⟨⟩; exact hok) (by rintro k ⟨⟩) h

theorem seqStep_effect {i : Instr} {p : Phase} {en : VideoState → Bool} {s t : State}
    {body : VideoState → VideoState}
    (hb : s.video.phase = p → en s.video = true → VideoEffect s.cfg i s.video (body s.video))
    (h : seqStep p en s body = .next t) : VideoEffect s.cfg i s.video t.video := by
  rcases seqStep_cases h with rfl | ⟨-, hp, he, rfl⟩
  · exact .keep
  · exact hb hp he

theorem pixelIndex_lt {c : Config} {x y : Int} (h : inFrame c x y = true) : pixelIndex c x y < c.w * c.h := by
  obtain ⟨hx, hxw, hy, hyh⟩ := inFrame_iff.mp h
  have hrow : y.toNat * c.w + x.toNat < c.h * c.w := rowMajor_lt (by omega) (by omega)
  have hcast : ((y.toNat * c.w + x.toNat : Nat) : Int) = y * c.w + x := by
    push_cast [Int.toNat_of_nonneg hx, Int.toNat_of_nonneg hy]
    rfl
  rw [pixelIndex, ← hcast, Int.toNat_natCast, Nat.mul_comm c.w]
  exact hrow

/-- A palette range is too long, passes the table's end, or lies inside it (R154, R155). -/
theorem rangeCheck_error {first : Byte} {count : BitVec 16} {k : Cause} (h : rangeCheck first count = .error k) :
    k = .badparam ∨ k = .ubRange := by
  unfold rangeCheck at h
  split at h
  · cases h; exact .inl rfl
  · split at h <;> cases h
    exact .inr rfl

/-- RUN's period is at most a second of ticks (R171, R33). -/
theorem run_tpf_le (c : Config) (fps : BitVec 16) : (BitVec.ofNat 64 (c.tickHz / fps.toNat)).toNat ≤ c.tickHz := by
  rw [BitVec.toNat_ofNat]
  exact (Nat.mod_le _ _).trans (Nat.div_le_self _ _)

/-- Every VCMD packet and every sequencer step has one of the effects. -/
theorem exec_videoEffect {i : Instr} {s t : State} (hp : i.port = .vcmd ∨ i.port = .seq)
    (h : exec i s = .next t) : VideoEffect s.cfg i s.video t.video := by
  unfold exec at h
  cases i with
  | putpixel idx x y =>
    refine videoCommand_effect rfl (fun v _ hv => ?_) (fun k hk => ?_) h
    · split at hv <;> cases hv
      exact .setPixel _ _ (pixelIndex_lt ‹_›)
    · split at hk <;> cases hk
      exact .inr rfl
  | blit srcw dx dy bytes =>
    refine videoCommand_effect rfl (fun v _ hv => ?_) (fun k hk => ?_) h
    · split at hv <;> cases hv
      exact .drawShape _
    · split at hk <;> cases hk
      exact .inl rfl
  | clear | hline | vline | fillrect => exact videoCommand_effect_ok rfl (.drawShape _) h
  | flip => exact videoCommand_effect_ok rfl .flipRoles h
  | commit => exact videoCommand_effect_ok rfl .commitRoles h
  | palwr i c => exact videoCommand_effect_ok rfl (.setEntry i c) h
  | palrd => exact videoCommand_effect_ok rfl (.respond _) h
  | pullf2b => exact videoCommand_effect_ok rfl (.paintPalette _) h
  | setgrad | rotpal =>
    refine videoCommand_effect rfl (fun v _ hv => ?_) (fun k hk => ?_) h
    · split at hv <;> cases hv
      exact .paintPalette _
    · split at hk <;> cases hk
      exact rangeCheck_error ‹_›
  | run fps =>
    refine videoCommand_effect rfl (fun v hr hv => ?_) (fun k hk => ?_) h
    · split at hv <;> cases hv
      exact .run _ (run_tpf_le s.cfg fps) (Phase.right_run hr)
    · split at hk <;> cases hk
      exact .inl rfl
  | hookret => exact videoCommand_effect_ok rfl .hookReturn h
  | seqFramedraw | seqScanline => exact seqStep_effect (fun _ _ => .keep) h
  | seqFlip => exact seqStep_effect (fun hq _ => .seqFlip hq) h
  | seqCommit => exact seqStep_effect (fun hq _ => .seqCommit hq) h
  | seqPresent => exact seqStep_effect (fun hq _ => .seqPresent _ _ hq) h
  | seqPace => exact seqStep_effect (fun hq hd => .seqPace hq hd) h
  | _ => simp [Instr.port] at hp

/-- A VCMD packet always has a next state. -/
theorem exec_vcmd_next {i : Instr} {cl : VClass} (hi : vclassOf i = some cl) (s : State) :
    ∃ t, exec i s = .next t := by
  unfold exec
  cases i with
  | putpixel | clear | hline | vline | fillrect | blit | flip | palwr | palrd | setgrad | rotpal | commit
  | pullf2b | run | hookret => exact videoCommand_next _ _ _
  | _ => cases hi

section Effects

variable {c : Config} {i : Instr} {v v' : VideoState}

/-- An effect leaves the latch, or is a fault of the unfaulted domain that changes nothing else. -/
theorem VideoEffect.fault_cases (h : VideoEffect c i v v') :
    v'.fault = v.fault ∨
    (v.fault.valid = false ∧ ∃ k, v' = v.raise k ∧
      ((∃ cl, vclassOf i = some cl ∧ v.phase.right cl = .refused k) ∨ k = .badparam ∨ k = .ubRange)) := by
  cases h with
  | refused cl k hf hc hr => exact .inr ⟨hf, k, rfl, .inl ⟨cl, hc, hr⟩⟩
  | badOperand k hf hk => exact .inr ⟨hf, k, rfl, .inr hk⟩
  | _ => exact .inl (by simp)

/-- No instruction writes an input. -/
theorem VideoEffect.inputs (h : VideoEffect c i v v') :
    v'.now = v.now ∧ v'.quit = v.quit ∧ v'.presentReady = v.presentReady ∧ v'.vcmd = v.vcmd := by
  cases h <;> simp

end Effects

/-! ### What a step does to the video domain -/

/-- The causes of a step's change to the video domain: inputs that land (and responses taken), an instruction of the
domain, an illegal packet, the release of `reset`. -/
inductive VideoMove (s t : State) : Prop where
  | inputs (frame : t.video = { s.video with
        now := t.video.now, quit := t.video.quit, presentReady := t.video.presentReady
        vcmd := t.video.vcmd, vrsp := t.video.vrsp })
      (now : s.video.now.toNat ≤ t.video.now.toNat) (quit : s.video.quit = true → t.video.quit = true)
      (words : s.video.vcmd <+: t.video.vcmd) (responses : t.video.vrsp <:+ s.video.vrsp) : VideoMove s t
  | effect (i : Instr) (ws : List Word) (runs : s.inReset = false) (unfaulted : s.video.fault.valid = false)
      (made : VideoEffect s.cfg i { s.video with vcmd := ws } t.video) : VideoMove s t
  | illegal (ws : List Word) (runs : s.inReset = false) (unfaulted : s.video.fault.valid = false)
      (made : t.video = { s.video with vcmd := ws, fault := ⟨true, Cause.illegal.code⟩ }) : VideoMove s t
  | release (releases : s.releasesReset = true)
      (made : t.video = VideoState.resetWith s.video.now s.video.presentReady s.video.events) : VideoMove s t

theorem VideoMove.of_eq {s t : State} (h : t.video = s.video) : VideoMove s t := by
  refine .inputs ?_ ?_ ?_ ?_ ?_ <;> simp [h]

theorem State.releasesReset_iff {s : State} :
    s.releasesReset = true ↔ s.inReset = true ∧ s.nextMove.1 = .reset false := by
  simp [releasesReset]

/-- A move that runs no instruction. -/
theorem State.move_stay_videoMove {s t : State} (h : s.nextMove.2.move s.nextMove.1 = .stay t) : VideoMove s t := by
  cases hm : s.nextMove.1 with
  | video =>
    rw [hm] at h
    rcases State.videoTurn_stay h with rfl | ⟨hr, hf, -, why, rest, -, rfl⟩
    · exact .of_eq (by simp)
    · exact .illegal rest (by simpa using hr) (by simpa using hf) (by simp)
  | audio | acmd | pull | takeArsp =>
    obtain ⟨a, rfl⟩ := State.move_stay_ofAudio (by rw [hm]; rfl) h
    exact .of_eq (by simp [setAudio])
  | tick n =>
    rw [hm] at h
    simp only [move, tick, nextMove_video] at h
    split at h <;> cases h
    next hlt =>
      have hle : s.video.now.toNat ≤ (s.video.now + n).toNat := by rw [BitVec.toNat_add_of_lt hlt]; omega
      exact .inputs (by simp) (by simpa using hle) (by simp) (by simp) (by simp)
  | reset level =>
    rw [hm] at h
    cases h
    cases level with
    | true => exact .of_eq (by simp [setReset])
    | false =>
      cases hr : s.inReset with
      | true => exact .release (State.releasesReset_iff.mpr ⟨hr, hm⟩) (by simp [setReset, hr, resetAction])
      | false => exact .of_eq (by simp [setReset, hr])
  | vcmd | quitReq | presentReady | takeVrsp =>
    rw [hm] at h
    cases h
    exact .inputs (by simp) (by simp) (by simp) (by simp) (by simp [List.tail_suffix])

/-- Everything a step can do to the video domain. -/
theorem step_videoMove {s t : State} (h : step s = .next t) : VideoMove s t := by
  rcases step_cases h with hf | ⟨i, s', hf, he⟩
  · exact State.move_stay_videoMove hf
  rcases State.move_run hf with ⟨-, hv⟩ | ⟨-, ha⟩ | ⟨n, -, -, -, rfl, rfl⟩
  · obtain ⟨hr, hu, ⟨ho, rfl⟩ | ⟨-, rest, hd, rfl⟩ | ⟨hw, -, rfl⟩⟩ := State.videoTurn_run hv
    · exact .effect i s.video.vcmd (by simpa using hr) (by simpa using hu)
        (by simpa using exec_videoEffect (.inr (Phase.ownStep_port ho)) he)
    · exact .effect i rest (by simpa using hr) (by simpa using hu)
        (by simpa using exec_videoEffect (.inl (decodeVideo_port hd)) he)
    · exact .effect i s.video.vcmd (by simpa using hr) (by simpa using hu)
        (by simpa using exec_videoEffect (.inr (Phase.wait_port hw)) he)
  · obtain ⟨-, -, -, rest, hd, rfl⟩ := State.audioTurn_run ha
    obtain ⟨a, rfl⟩ := exec_audio_frame (.inl (decodeAudio_port hd)) he
    exact .of_eq (by simp)
  · obtain ⟨a, rfl⟩ := exec_audio_frame (.inr rfl) he
    exact .of_eq (by simp)

end Sys2Proof.Machine
end

section
/-! PROOFS, the layer under the statements on every step, the audio domain: what an instruction makes of a voice and
of the domain, and what a step does. -/

namespace Sys2Proof.Machine

/-! ### What an instruction makes of a voice (R203 to R261) -/

/-- The oscillator after a command of its voice, `draw` being the next noise draw. -/
inductive OscEffect (c : Config) (draw : FReal) (o : Osc) : Osc → Prop where
  | keep : OscEffect c draw o o
  | next {x : FReal} {o' : Osc} {w : Bool} (made : o.next c draw = .ok (x, o', w)) : OscEffect c draw o o'
  | rst : OscEffect c draw o { o with phase := fzero }
  | freq (r : FReal) (finite : isFinite c.fmt r = true) : OscEffect c draw o { o with freq := ⟨r, true⟩ }
  | detune (r : FReal) (finite : isFinite c.fmt r = true) : OscEffect c draw o { o with detune := ⟨r, true⟩ }
  | wave (w : Waveform) : OscEffect c draw o { o with wave := ⟨w, true⟩ }

/-- The envelope after instruction `i`, a command of its voice. -/
inductive EnvEffect (c : Config) (e : Env) : Instr → Env → Prop where
  | keep (i : Instr) : EnvEffect c e i e
  | next {i : Instr} {e' : Env} (v : Byte) (cause : i = .envnext v ∨ i = .voice v) (made : e.next c = .ok e') :
      EnvEffect c e i e'
  | on (v : Byte) : EnvEffect c e (.envon v) { e with stage := .attack }
  | off (v : Byte) (before : e.stage ≠ .idle) :
      EnvEffect c e (.envoff v) { e with relstart := e.value, stage := .release }
  | rst (v : Byte) : EnvEffect c e (.envrst v) { e with stage := .idle, value := fzero }
  | attack (v : Byte) (r : FReal) (finite : isFinite c.fmt r = true) :
      EnvEffect c e (.envatk v r) { e with attack := ⟨r, true⟩ }
  | decay (v : Byte) (r : FReal) (finite : isFinite c.fmt r = true) :
      EnvEffect c e (.envdec v r) { e with decay := ⟨r, true⟩ }
  | sustain (v : Byte) (r : FReal) (level : inZeroOne c.fmt r = true) :
      EnvEffect c e (.envsus v r) { e with sustain := ⟨r, true⟩ }
  | release (v : Byte) (r : FReal) (finite : isFinite c.fmt r = true) :
      EnvEffect c e (.envrel v r) { e with release := ⟨r, true⟩ }

/-- The filter after a command of its voice. -/
inductive FilterEffect (c : Config) (fl : Filter) : Filter → Prop where
  | keep : FilterEffect c fl fl
  | process {x y : FReal} {fl' : Filter} (finite : isFinite c.fmt x = true)
      (made : fl.process c x = .ok (y, fl')) : FilterEffect c fl fl'
  | rst : FilterEffect c fl { fl with x1 := fzero, x2 := fzero, y1 := fzero, y2 := fzero }
  | ftype (t : FilterType) : FilterEffect c fl { fl with ftype := ⟨t, true⟩, dirty := true }
  | cutoff (r : FReal) (finite : isFinite c.fmt r = true) :
      FilterEffect c fl { fl with cutoff := ⟨r, true⟩, dirty := true }
  | res (r : FReal) (finite : isFinite c.fmt r = true) :
      FilterEffect c fl { fl with res := ⟨r, true⟩, dirty := true }

/-- A voice after instruction `i`, a command of it. -/
structure VoiceEffect (c : Config) (i : Instr) (draw : FReal) (vc vc' : Voice) : Prop where
  osc : OscEffect c draw vc.osc vc'.osc
  env : EnvEffect c vc.env i vc'.env
  flt : FilterEffect c vc.flt vc'.flt

section Parts

variable {c : Config} {i : Instr} {draw : FReal} {vc : Voice}

theorem VoiceEffect.onlyOsc {o : Osc} (h : OscEffect c draw vc.osc o) :
    VoiceEffect c i draw vc { vc with osc := o } := ⟨h, .keep i, .keep⟩

theorem VoiceEffect.onlyEnv {e : Env} (h : EnvEffect c vc.env i e) :
    VoiceEffect c i draw vc { vc with env := e } := ⟨.keep, h, .keep⟩

theorem VoiceEffect.onlyFlt {fl : Filter} (h : FilterEffect c vc.flt fl) :
    VoiceEffect c i draw vc { vc with flt := fl } := ⟨.keep, .keep i, h⟩

end Parts

/-! ### What an ACMD packet makes of the audio domain (R200 to R265, R292) -/

/-- The audio domain after the ACMD packet `i`. -/
inductive AudioEffect (c : Config) (i : Instr) (a : AudioState) : AudioState → Prop where
  | keep : AudioEffect c i a a
  | fault (k : Cause) (unfaulted : a.fault.valid = false) (cause : k ∈ audioCauses) : AudioEffect c i a (a.raise k)
  | voice (v : Byte) (vc : Voice) (r : VoiceResult) (unit : unitOf i = some v)
      (stands : a.voices[v.toNat]? = some vc)
      (made : VoiceEffect c i (drawNoise c.fmt a.draws) vc r.voice) : AudioEffect c i a (a.putVoice c.fmt v r)
  | spanwr (slot : BitVec 16) (x : Sample) : AudioEffect c i a { a with span := a.span.set slot.toNat x }
  | fillReturn (err : Bool) : AudioEffect c i a (a.fillReturn err)
  | abufwr (slot : BitVec 16) (x : Sample) (inside : slot.toNat < c.abufSize) :
      AudioEffect c i a (a.setAbufBack (memWrite 0 a.abufBack slot.toNat x))
  | abufrdy : AudioEffect c i a { a with aready := true }

/-- The audio domain after the adapter's answer to `PULL(n)` (R266 to R270). -/
inductive PullEffect (c : Config) (n : BitVec 16) (a : AudioState) : AudioState → Prop where
  | silent (faulted : a.fault.valid = true) : PullEffect c n a (a.silentPull n)
  | enterFill (unfaulted : a.fault.valid = false) (mode : c.audioMode = .inline) : PullEffect c n a (a.enterFill n)
  | buffered (unfaulted : a.fault.valid = false) (mode : c.audioMode = .buffered) :
      PullEffect c n a (a.bufferedPull n)

theorem audioCommand_effect {i : Instr} {s t : State} {body : AudioState → Except Cause AudioState}
    (hok : ∀ a, body s.audio = .ok a → AudioEffect s.cfg i s.audio a)
    (herr : ∀ k, body s.audio = .error k → k ∈ audioCauses) (h : audioCommand s body = .next t) :
    AudioEffect s.cfg i s.audio t.audio := by
  rcases audioCommand_cases h with rfl | ⟨hf, -, ⟨a, ha, rfl⟩ | ⟨k, hk, rfl⟩⟩
  · exact .keep
  · exact hok a ha
  · exact .fault k hf (herr k hk)

theorem voiceCommand_effect {i : Instr} {v : Byte} {s t : State} {body : Voice → FReal → Except Cause VoiceResult}
    (hu : unitOf i = some v)
    (hok : ∀ vc draw r, body vc draw = .ok r → VoiceEffect s.cfg i draw vc r.voice)
    (herr : ∀ vc draw k, body vc draw = .error k → k ∈ audioCauses) (h : voiceCommand v s body = .next t) :
    AudioEffect s.cfg i s.audio t.audio := by
  rcases voiceCommand_cases h with rfl | ⟨hf, -, ⟨-, rfl⟩ | ⟨vc, hvc, ⟨r, hr, rfl⟩ | ⟨k, hk, rfl⟩⟩⟩
  · exact .keep
  · exact .fault .illegal hf (by decide)
  · exact .voice v vc r hu hvc (hok vc _ r hr)
  · exact .fault k hf (herr vc _ k hk)

/-- A voice command that cannot fault. -/
theorem voiceCommand_effect_ok {i : Instr} {v : Byte} {s t : State} {body : Voice → FReal → VoiceResult}
    (hu : unitOf i = some v) (hok : ∀ vc draw, VoiceEffect s.cfg i draw vc (body vc draw).voice)
    (h : voiceCommand v s (fun vc draw => .ok (body vc draw)) = .next t) : AudioEffect s.cfg i s.audio t.audio :=
  voiceCommand_effect hu (by rintro vc draw r ⟨⟩; exact hok vc draw) (by rintro vc draw k ⟨⟩) h

theorem finiteOperand_error {f : Fmt} {r : FReal} {k : Cause} (h : finiteOperand f r = .error k) :
    k = .badparam := by
  unfold finiteOperand at h
  split at h <;> cases h
  rfl

/-- The set commands: a finite operand is stored, any other is BADPARAM (R107). -/
theorem voiceCommand_effect_real {i : Instr} {v : Byte} {x : FReal} {s t : State} {body : Voice → FReal → Voice}
    (hu : unitOf i = some v)
    (hok : ∀ vc draw, isFinite s.cfg.fmt x = true → VoiceEffect s.cfg i draw vc (body vc x))
    (h : voiceCommand v s (fun vc _ =>
      match finiteOperand s.cfg.fmt x with
      | .error k => .error k
      | .ok r => .ok ⟨body vc r, 0, none⟩) = .next t) : AudioEffect s.cfg i s.audio t.audio := by
  refine voiceCommand_effect hu (fun vc draw r hr => ?_) (fun vc draw k hk => ?_) h
  · split at hr <;> cases hr
    next hx =>
    obtain ⟨hfin, rfl⟩ := finiteOperand_ok hx
    exact hok vc draw hfin
  · split at hk <;> cases hk
    next hx => rw [finiteOperand_error hx]; decide

/-! ### The faults of the chain's parts -/

theorem Osc.next_error {c : Config} {o : Osc} {draw : FReal} {k : Cause} (h : o.next c draw = .error k) :
    k ∈ audioCauses := by
  unfold Osc.next at h
  split at h
  · dsimp only at h
    split at h <;> cases h
    decide
  · cases h
    decide

theorem Filter.design_error {c : Config} {fl : Filter} {k : Cause} (h : fl.design c = .error k) : k = .uninit := by
  unfold Filter.design at h
  split at h <;> cases h
  rfl

theorem Filter.refresh_error {c : Config} {fl : Filter} {k : Cause} (h : fl.refresh c = .error k) :
    k = .uninit := by
  unfold Filter.refresh at h
  split at h
  · split at h <;> cases h
    exact Filter.design_error ‹_›
  · cases h

theorem Filter.process_error {c : Config} {fl : Filter} {x : FReal} {k : Cause} (h : fl.process c x = .error k) :
    k ∈ audioCauses := by
  unfold Filter.process at h
  split at h
  · next hr => cases h; rw [Filter.refresh_error hr]; decide
  · dsimp only at h
    split at h <;> cases h
    decide

/-- A stage action faults only on an unwritten parameter (R221). -/
theorem Env.next_error {c : Config} {e : Env} {k : Cause} (h : e.next c = .error k) : k = .uninit := by
  unfold Env.next at h
  dsimp only at h
  repeat' split at h
  all_goals cases h
  all_goals exact (Param.rd_error ‹_›).2

/-- What VOICE stores and responds comes from its three parts (R261). -/
theorem Voice.next_ok_parts {c : Config} {vc : Voice} {draw : FReal} {r : VoiceResult}
    (h : vc.next c draw = .ok r) :
    ∃ x o w y fl e, vc.osc.next c draw = .ok (x, o, w) ∧ isFinite c.fmt x = true ∧
      vc.flt.process c x = .ok (y, fl) ∧ vc.env.next c = .ok e ∧ r.voice = ⟨o, e, fl⟩ := by
  unfold Voice.next at h
  split at h
  · cases h
  next x o w ho =>
  split at h
  · cases h
  next x' hx =>
  obtain ⟨hfin, rfl⟩ := finiteOperand_ok hx
  split at h
  · cases h
  next y fl hf =>
  split at h <;> cases h
  next e he => exact ⟨_, _, _, _, _, _, ho, hfin, hf, he, rfl⟩

theorem Voice.next_error {c : Config} {vc : Voice} {draw : FReal} {k : Cause} (h : vc.next c draw = .error k) :
    k ∈ audioCauses := by
  unfold Voice.next at h
  split at h
  · next ho => cases h; exact Osc.next_error ho
  split at h
  · next hx => cases h; rw [finiteOperand_error hx]; decide
  split at h
  · next hf => cases h; exact Filter.process_error hf
  split at h <;> cases h
  next he => rw [Env.next_error he]; decide

/-- Every ACMD packet has one of the effects. -/
theorem exec_audioEffect {i : Instr} {s t : State} (hp : i.port = .acmd) (h : exec i s = .next t) :
    AudioEffect s.cfg i s.audio t.audio := by
  unfold exec at h
  cases i with
  | oscnext v =>
    refine voiceCommand_effect rfl (fun vc draw r hr => ?_) (fun vc draw k hk => ?_) h
    · split at hr <;> cases hr
      exact .onlyOsc (.next ‹_›)
    · split at hk <;> cases hk
      exact Osc.next_error ‹_›
  | oscrst v => exact voiceCommand_effect_ok rfl (fun _ _ => .onlyOsc .rst) h
  | oscnote v n =>
    refine voiceCommand_effect rfl (fun vc draw r hr => ?_) (fun vc draw k hk => ?_) h
    · dsimp only at hr
      split at hr <;> cases hr
      exact .onlyOsc (.freq _ ‹_›)
    · dsimp only at hk
      split at hk <;> cases hk
      decide
  | oscfreq v r => exact voiceCommand_effect_real rfl (fun _ _ hr => .onlyOsc (.freq r hr)) h
  | oscdet v r => exact voiceCommand_effect_real rfl (fun _ _ hr => .onlyOsc (.detune r hr)) h
  | oscwave v tag =>
    refine voiceCommand_effect rfl (fun vc draw r hr => ?_) (fun vc draw k hk => ?_) h
    · split at hr <;> cases hr
      exact .onlyOsc (.wave _)
    · split at hk <;> cases hk
      decide
  | envnext v =>
    refine voiceCommand_effect rfl (fun vc draw r hr => ?_) (fun vc draw k hk => ?_) h
    · split at hr <;> cases hr
      exact .onlyEnv (.next v (.inl rfl) ‹_›)
    · split at hk <;> cases hk
      next he => rw [Env.next_error he]; decide
  | envon v => exact voiceCommand_effect_ok rfl (fun _ _ => .onlyEnv (.on v)) h
  | envoff v =>
    refine voiceCommand_effect rfl (fun vc draw r hr => ?_) (fun vc draw k hk => ?_) h
    · split at hr <;> cases hr
      · exact .onlyEnv (.keep _)
      · exact .onlyEnv (.off v ‹_›)
    · split at hk <;> cases hk
  | envrst v => exact voiceCommand_effect_ok rfl (fun _ _ => .onlyEnv (.rst v)) h
  | envatk v r => exact voiceCommand_effect_real rfl (fun _ _ hr => .onlyEnv (.attack v r hr)) h
  | envdec v r => exact voiceCommand_effect_real rfl (fun _ _ hr => .onlyEnv (.decay v r hr)) h
  | envrel v r => exact voiceCommand_effect_real rfl (fun _ _ hr => .onlyEnv (.release v r hr)) h
  | envsus v x =>
    refine voiceCommand_effect rfl (fun vc draw r hr => ?_) (fun vc draw k hk => ?_) h
    · split at hr
      · cases hr
      next hx =>
      obtain ⟨-, rfl⟩ := finiteOperand_ok hx
      split at hr <;> cases hr
      exact .onlyEnv (.sustain v _ ‹_›)
    · split at hk
      · next hx => cases hk; rw [finiteOperand_error hx]; decide
      · split at hk <;> cases hk
        decide
  | fltproc v x =>
    refine voiceCommand_effect rfl (fun vc draw r hr => ?_) (fun vc draw k hk => ?_) h
    · split at hr
      · cases hr
      next hx =>
      obtain ⟨hfin, rfl⟩ := finiteOperand_ok hx
      split at hr <;> cases hr
      exact .onlyFlt (.process hfin ‹_›)
    · split at hk
      · next hx => cases hk; rw [finiteOperand_error hx]; decide
      · split at hk <;> cases hk
        exact Filter.process_error ‹_›
  | fltrst v => exact voiceCommand_effect_ok rfl (fun _ _ => .onlyFlt .rst) h
  | flttype v ty =>
    refine voiceCommand_effect rfl (fun vc draw r hr => ?_) (fun vc draw k hk => ?_) h
    · split at hr <;> cases hr
      exact .onlyFlt (.ftype _)
    · split at hk <;> cases hk
      decide
  | fltcut v r => exact voiceCommand_effect_real rfl (fun _ _ hr => .onlyFlt (.cutoff r hr)) h
  | fltres v r => exact voiceCommand_effect_real rfl (fun _ _ hr => .onlyFlt (.res r hr)) h
  | voice v =>
    refine voiceCommand_effect rfl (fun vc draw r hr => ?_) (fun vc draw k hk => Voice.next_error hk) h
    obtain ⟨x, o, w, y, fl, e, ho, hfin, hf, he, hvc⟩ := Voice.next_ok_parts hr
    rw [hvc]
    exact ⟨.next ho, .next v (.inr rfl) he, .process hfin hf⟩
  | spanwr slot x =>
    refine audioCommand_effect (fun a ha => ?_) (fun k hk => ?_) h
    · repeat' split at ha
      all_goals cases ha
      exact .spanwr slot x
    · repeat' split at hk
      all_goals cases hk
      all_goals decide
  | fillret err =>
    refine audioCommand_effect (fun a ha => ?_) (fun k hk => ?_) h
    · split at ha <;> cases ha
      exact .fillReturn err
    · split at hk <;> cases hk
      decide
  | abufwr slot x =>
    refine audioCommand_effect (fun a ha => ?_) (fun k hk => ?_) h
    · repeat' split at ha
      all_goals cases ha
      exact .abufwr slot x (by omega)
    · repeat' split at hk
      all_goals cases hk
      all_goals decide
  | abufrdy =>
    refine audioCommand_effect (fun a ha => ?_) (fun k hk => ?_) h
    · split at ha <;> cases ha
      exact .abufrdy
    · split at hk <;> cases hk
      decide
  | _ => simp [Instr.port] at hp

theorem execPull_effect {n : BitVec 16} {s t : State} (h : execPull n s = .next t) :
    n.toNat ≤ s.cfg.abufSize ∧ PullEffect s.cfg n s.audio t.audio := by
  obtain ⟨-, hn, ⟨hf, rfl⟩ | ⟨hf, hm, -, rfl⟩ | ⟨hf, hm, rfl⟩⟩ := execPull_cases h
  · exact ⟨hn, .silent hf⟩
  · exact ⟨hn, .enterFill hf hm⟩
  · exact ⟨hn, .buffered hf hm⟩

/-! ### What a step does to the audio domain -/

/-- The causes of a step's change to the audio domain: inputs that land (and responses taken), an ACMD packet, an
illegal packet, a PULL, the release of `reset`. -/
inductive AudioMove (s t : State) : Prop where
  | inputs (frame : t.audio = { s.audio with acmd := t.audio.acmd, arsp := t.audio.arsp })
      (absent : s.cfg.sr = 0 → t.audio = s.audio)
      (words : s.audio.acmd <+: t.audio.acmd) (responses : t.audio.arsp <:+ s.audio.arsp) : AudioMove s t
  | packet (i : Instr) (ws : List Word) (runs : s.inReset = false) (present : s.cfg.sr ≠ 0)
      (unfaulted : s.audio.fault.valid = false)
      (made : AudioEffect s.cfg i { s.audio with acmd := ws } t.audio) : AudioMove s t
  | illegal (ws : List Word) (runs : s.inReset = false) (present : s.cfg.sr ≠ 0)
      (unfaulted : s.audio.fault.valid = false)
      (made : t.audio = ({ s.audio with acmd := ws } : AudioState).raise .illegal) : AudioMove s t
  | pull (n : BitVec 16) (runs : s.inReset = false) (present : s.cfg.sr ≠ 0) (fits : n.toNat ≤ s.cfg.abufSize)
      (made : PullEffect s.cfg n s.audio t.audio) : AudioMove s t
  | release (releases : s.releasesReset = true)
      (made : t.audio = AudioState.resetWith s.cfg s.audio.draws s.audio.events) : AudioMove s t

theorem AudioMove.of_eq {s t : State} (h : t.audio = s.audio) : AudioMove s t := by
  refine .inputs ?_ (fun _ => h) ?_ ?_ <;> simp [h]

/-- A move that runs no instruction. -/
theorem State.move_stay_audioMove {s t : State} (h : s.nextMove.2.move s.nextMove.1 = .stay t) : AudioMove s t := by
  cases hm : s.nextMove.1 with
  | audio =>
    rw [hm] at h
    rcases State.audioTurn_stay h with rfl | ⟨hr, hf, hs, why, rest, -, rfl⟩
    · exact .of_eq (by simp)
    · exact .illegal rest (by simpa using hr) (by simpa using hs) (by simpa using hf) (by simp)
  | video | vcmd | quitReq | presentReady | tick | takeVrsp =>
    obtain ⟨v, rfl⟩ := State.move_stay_ofVideo (by rw [hm]; rfl) h
    exact .of_eq (by simp [setVideo])
  | pull n =>
    rw [hm] at h
    rcases State.audioInput_cases h with ⟨-, hg⟩ | ⟨-, hg⟩
    · cases hg
    · split at hg <;> cases hg
      exact .of_eq (by simp)
  | acmd | takeArsp =>
    rw [hm] at h
    rcases State.audioInput_cases h with ⟨-, hg⟩ | ⟨hs, hg⟩ <;> cases hg
    rw [nextMove_cfg] at hs
    exact .inputs (by simp) (fun h0 => absurd h0 hs) (by simp) (by simp [List.tail_suffix])
  | reset level =>
    rw [hm] at h
    cases h
    cases level with
    | true => exact .of_eq (by simp [setReset])
    | false =>
      cases hr : s.inReset with
      | true => exact .release (State.releasesReset_iff.mpr ⟨hr, hm⟩) (by simp [setReset, hr, resetAction])
      | false => exact .of_eq (by simp [setReset, hr])

/-- Everything a step can do to the audio domain. -/
theorem step_audioMove {s t : State} (h : step s = .next t) : AudioMove s t := by
  rcases step_cases h with hf | ⟨i, s', hf, he⟩
  · exact State.move_stay_audioMove hf
  rcases State.move_run hf with ⟨hm, -⟩ | ⟨-, ha⟩ | ⟨n, -, hs, hr, rfl, rfl⟩
  · have hv := State.move_run_ofVideo (by rw [hm]; rfl) hf
    obtain ⟨v, rfl⟩ := exec_video_frame hv he
    rcases State.move_run_port hf with ⟨-, -, rest, -, rfl⟩ | ⟨-, -, rfl⟩ | ⟨-, ha, -⟩ | ⟨-, -, n, hn, -⟩
    · exact .of_eq (by simp)
    · exact .of_eq (by simp)
    · simp [hm] at ha
    · simp [hm] at hn
  · obtain ⟨hr, hu, hs, rest, hd, rfl⟩ := State.audioTurn_run ha
    exact .packet i rest (by simpa using hr) (by simpa using hs) (by simpa using hu)
      (by simpa using exec_audioEffect (decodeAudio_port hd) he)
  · obtain ⟨hn, hp⟩ := execPull_effect he
    exact .pull n (by simpa using hr) (by simpa using hs) (by simpa using hn) (by simpa using hp)

end Sys2Proof.Machine
end

section
/-! PROOFS of the invariants of the memories, the sequencer, the adapter and the event order (`spec/10_state.md`,
`spec/42_raster_sequencer.md`, `spec/46_audio_callback.md`, `spec/60_exceptions.md`): each holds after every effect of
the layer before, so after every step. -/

namespace Sys2Proof.Machine

theorem step_cfg {s t : State} (h : step s = .next t) : t.cfg = s.cfg :=
  Sys2Proof.Proofs.configurationIsFixed s t h

/-! ### The video memories (R26, R28) -/

section VideoMemories

variable {c : Config} {v : VideoState}

theorem VideoState.memoriesOk_iff :
    v.memoriesOk c = true ↔ (memOk 0 (c.w * c.h) v.fb0 = true ∧ memOk 0 (c.w * c.h) v.fb1 = true) ∧
      memOk RGB.black 256 v.pal0 = true ∧ memOk RGB.black 256 v.pal1 = true := by
  simp [memoriesOk, and_assoc]

theorem VideoState.memOk_fbBack (h : v.memoriesOk c = true) : memOk 0 (c.w * c.h) v.fbBack = true := by
  obtain ⟨⟨h0, h1⟩, -⟩ := memoriesOk_iff.mp h
  unfold fbBack
  split <;> assumption

theorem VideoState.memOk_palBack (h : v.memoriesOk c = true) : memOk RGB.black 256 v.palBack = true := by
  obtain ⟨-, h0, h1⟩ := memoriesOk_iff.mp h
  unfold palBack
  split <;> assumption

theorem VideoState.memoriesOk_setFbBack {m : List Host.Cell} (h : v.memoriesOk c = true)
    (hm : memOk 0 (c.w * c.h) m = true) : (v.setFbBack m).memoriesOk c = true := by
  obtain ⟨⟨h0, h1⟩, hp⟩ := memoriesOk_iff.mp h
  unfold setFbBack
  split
  · exact memoriesOk_iff.mpr ⟨⟨hm, h1⟩, hp⟩
  · exact memoriesOk_iff.mpr ⟨⟨h0, hm⟩, hp⟩

theorem VideoState.memoriesOk_setPalBack {m : List (Nat × RGB)} (h : v.memoriesOk c = true)
    (hm : memOk RGB.black 256 m = true) : (v.setPalBack m).memoriesOk c = true := by
  obtain ⟨hf, h0, h1⟩ := memoriesOk_iff.mp h
  unfold setPalBack
  split
  · exact memoriesOk_iff.mpr ⟨hf, hm, h1⟩
  · exact memoriesOk_iff.mpr ⟨hf, h0, hm⟩

/-- Every write of an instruction is inside its memory and in canonical form. -/
theorem VideoEffect.memoriesOk {i : Instr} {v' : VideoState} (he : VideoEffect c i v v')
    (h : v.memoriesOk c = true) : v'.memoriesOk c = true := by
  cases he with
  | setPixel o idx ho => exact VideoState.memoriesOk_setFbBack h (memOk_write _ ho (VideoState.memOk_fbBack h))
  | drawShape shape =>
    exact VideoState.memoriesOk_setFbBack h (memOk_paint _ (Nat.le_refl _) (VideoState.memOk_fbBack h))
  | setEntry k color =>
    exact VideoState.memoriesOk_setPalBack h (memOk_write _ k.isLt (VideoState.memOk_palBack h))
  | paintPalette p =>
    exact VideoState.memoriesOk_setPalBack h (memOk_paint _ (Nat.le_refl _) (VideoState.memOk_palBack h))
  | _ => simpa [VideoState.memoriesOk] using h

theorem VideoState.memoriesOk_resetWith (c : Config) (now : BitVec 64) (ready : Bool) (es : List VEvent) :
    (VideoState.resetWith now ready es).memoriesOk c = true := by
  simp [VideoState.memoriesOk, resetWith]

end VideoMemories

theorem VideoMove.memoriesOk {s t : State} (hm : VideoMove s t) (h : s.video.memoriesOk s.cfg = true) :
    t.video.memoriesOk s.cfg = true := by
  cases hm with
  | inputs frame => rw [frame]; exact h
  | effect i ws _ _ made => exact made.memoriesOk h
  | illegal ws _ _ made => rw [made]; exact h
  | release _ made => rw [made]; exact VideoState.memoriesOk_resetWith ..

/-! ### The audio memories (R46, R47, R266) -/

/-- The sample arrays in canonical form and size, the span with one slot per sample of the largest request, and the
request within it: what `AudioState.memoriesOk` says where there is an audio domain. -/
structure AudioState.SamplesOk (c : Config) (a : AudioState) : Prop where
  abuf0 : memOk 0 c.abufSize a.abuf0 = true
  abuf1 : memOk 0 c.abufSize a.abuf1 = true
  span : a.span.length = c.abufSize
  request : a.fillN.toNat ≤ c.abufSize

section AudioMemories

variable {c : Config} {a : AudioState}

theorem AudioState.memoriesOk_iff (hs : c.sr ≠ 0) : a.memoriesOk c = true ↔ a.SamplesOk c := by
  simp only [memoriesOk, hs, if_false, Bool.and_eq_true, beq_iff_eq, decide_eq_true_eq]
  exact ⟨fun ⟨⟨⟨h0, h1⟩, hspan⟩, hn⟩ => ⟨h0, h1, hspan, hn⟩, fun ⟨h0, h1, hspan, hn⟩ => ⟨⟨⟨h0, h1⟩, hspan⟩, hn⟩⟩

theorem AudioState.length_span_raise (a : AudioState) (k : Cause) (h : a.fillN.toNat ≤ a.span.length) :
    (a.raise k).span.length = a.span.length := by
  unfold raise closeFill
  cases a.fillActive with
  | true => exact a.length_loadSpan _ _ h
  | false => rfl

theorem AudioState.SamplesOk.raise (h : a.SamplesOk c) (k : Cause) : (a.raise k).SamplesOk c where
  abuf0 := by simpa using h.abuf0
  abuf1 := by simpa using h.abuf1
  span := (a.length_span_raise k (h.span ▸ h.request)).trans h.span
  request := by simpa using h.request

theorem AudioState.SamplesOk.withAcmd (h : a.SamplesOk c) (ws : List Word) :
    ({ a with acmd := ws } : AudioState).SamplesOk c := ⟨h.abuf0, h.abuf1, h.span, h.request⟩

theorem AudioState.SamplesOk.abufBack (h : a.SamplesOk c) : memOk 0 c.abufSize a.abufBack = true := by
  unfold AudioState.abufBack
  split
  · exact h.abuf0
  · exact h.abuf1

theorem AudioEffect.samplesOk {i : Instr} {a' : AudioState} (he : AudioEffect c i a a') (h : a.SamplesOk c) :
    a'.SamplesOk c := by
  cases he with
  | keep => exact h
  | fault k => exact h.raise k
  | voice v vc r =>
    exact ⟨by simpa using h.abuf0, by simpa using h.abuf1, by simpa using h.span, by simpa using h.request⟩
  | spanwr slot x => exact ⟨h.abuf0, h.abuf1, by simpa using h.span, h.request⟩
  | fillReturn err =>
    refine ⟨by simpa using h.abuf0, by simpa using h.abuf1, ?_, by simpa using h.request⟩
    cases err with
    | true => exact (a.length_loadSpan _ _ (h.span ▸ h.request)).trans h.span
    | false => exact h.span
  | abufwr slot x hslot =>
    have hw := memOk_write (z := 0) x hslot h.abufBack
    unfold AudioState.setAbufBack
    split
    · exact ⟨hw, h.abuf1, h.span, h.request⟩
    · exact ⟨h.abuf0, hw, h.span, h.request⟩
  | abufrdy => exact ⟨h.abuf0, h.abuf1, h.span, h.request⟩

theorem PullEffect.samplesOk {n : BitVec 16} {a' : AudioState} (he : PullEffect c n a a')
    (hn : n.toNat ≤ c.abufSize) (h : a.SamplesOk c) : a'.SamplesOk c := by
  have hspan : n.toNat ≤ a.span.length := h.span ▸ hn
  cases he with
  | silent => exact ⟨h.abuf0, h.abuf1, h.span, h.request⟩
  | enterFill => exact ⟨h.abuf0, h.abuf1, (a.length_loadSpan _ _ hspan).trans h.span, hn⟩
  | buffered =>
    unfold AudioState.bufferedPull
    split <;> exact ⟨h.abuf0, h.abuf1, (a.length_loadSpan _ _ hspan).trans h.span, hn⟩

theorem AudioState.samplesOk_present (c : Config) (draws : Nat) (es : List AEvent) :
    (AudioState.present c draws es).SamplesOk c :=
  ⟨rfl, rfl, by simp [present], by simp [present]⟩

end AudioMemories

theorem AudioState.memoriesOk_resetWith (c : Config) (draws : Nat) (es : List AEvent) :
    (AudioState.resetWith c draws es).memoriesOk c = true := by
  by_cases hs : c.sr = 0
  · simp [hs, memoriesOk, absent]
  · rw [resetWith_present hs, memoriesOk_iff hs]
    exact samplesOk_present c draws es

theorem AudioMove.memoriesOk {s t : State} (hm : AudioMove s t) (h : s.audio.memoriesOk s.cfg = true) :
    t.audio.memoriesOk s.cfg = true := by
  cases hm with
  | inputs frame => rw [frame]; exact h
  | packet i ws _ hs _ made =>
    rw [AudioState.memoriesOk_iff hs] at h ⊢
    exact made.samplesOk (h.withAcmd ws)
  | illegal ws _ hs _ made =>
    rw [AudioState.memoriesOk_iff hs] at h ⊢
    rw [made]
    exact (h.withAcmd ws).raise _
  | pull n _ hs hn made =>
    rw [AudioState.memoriesOk_iff hs] at h ⊢
    exact made.samplesOk hn h
  | release _ made => rw [made]; exact AudioState.memoriesOk_resetWith ..

/-! ### The sequencer (R32, R33, R35, R37) -/

/-- What `State.sequencerOk` says, of the video domain alone. -/
structure VideoState.SequencerOk (c : Config) (v : VideoState) : Prop where
  line : v.line.toNat < c.h
  deadline : v.deadline.toNat ≤ v.now.toNat
  tpf : v.tpf.toNat ≤ c.tickHz
  fault : v.fault.within videoCauses = true

theorem State.sequencerOk_iff {s : State} : s.sequencerOk = true ↔ s.video.SequencerOk s.cfg := by
  simp only [sequencerOk, Bool.and_eq_true, decide_eq_true_eq]
  exact ⟨fun ⟨⟨⟨hl, hd⟩, ht⟩, hf⟩ => ⟨hl, hd, ht, hf⟩, fun ⟨hl, hd, ht, hf⟩ => ⟨⟨⟨hl, hd⟩, ht⟩, hf⟩⟩

/-- A phase refuses with ACCESS or OWNERSHIP (R176). -/
theorem Phase.right_refused {p : Phase} {cl : VClass} {k : Cause} (h : p.right cl = .refused k) :
    k = .access ∨ k = .ownership := by
  cases p <;> cases cl <;> cases h <;> simp

/-- The latch after an instruction holds one of the causes of VCMD packets, if it held one before (R293). -/
theorem VideoEffect.fault_within {c : Config} {i : Instr} {v v' : VideoState} (he : VideoEffect c i v v')
    (h : v.fault.within videoCauses = true) : v'.fault.within videoCauses = true := by
  rcases he.fault_cases with hf | ⟨-, k, rfl, hk⟩
  · rwa [hf]
  · refine FaultLatch.within_raise h ?_
    rcases hk with ⟨cl, -, hr⟩ | rfl | rfl
    · rcases Phase.right_refused hr with rfl | rfl <;> decide
    · decide
    · decide

/-- The next frame's line is 0, or the line stays. -/
theorem VideoState.line_enterFrame_le (v : VideoState) : v.enterFrame.line.toNat ≤ v.line.toNat := by
  rcases v.enterFrame_cases with ⟨-, he⟩ | ⟨-, he⟩ <;> simp [he]

/-- The return from a hook goes to a line of the frame (R174). -/
theorem VideoState.line_hookReturn_lt {c : Config} {v : VideoState} (h : v.line.toNat < c.h) :
    (v.hookReturn c).line.toNat < c.h := by
  rcases v.hookReturn_cases c with ⟨-, he⟩ | ⟨-, hl, he⟩ | ⟨-, -, he⟩ | he <;> rw [he]
  · exact (Nat.zero_le _).trans_lt h
  · exact (show (v.line + 1).toNat ≤ v.line.toNat + 1 by bv_omega).trans_lt hl
  · exact h
  · exact h

theorem VideoEffect.sequencerOk {c : Config} {i : Instr} {v v' : VideoState} (he : VideoEffect c i v v')
    (h : v.SequencerOk c) : v'.SequencerOk c := by
  have hfault := he.fault_within h.fault
  obtain ⟨hl, hd, ht, -⟩ := h
  cases he with
  | run tpf period => exact ⟨(VideoState.line_enterFrame_le _).trans_lt hl, by simp, by simpa using period, hfault⟩
  | seqPace _ due =>
    have hdue : v.nextDeadline ≤ v.now.toNat := VideoState.paceEnabled_iff.mp due
    refine ⟨(VideoState.line_enterFrame_le _).trans_lt hl, ?_, by simpa using ht, hfault⟩
    simpa using (Nat.mod_le _ _).trans hdue
  | hookReturn => exact ⟨VideoState.line_hookReturn_lt hl, by simpa using hd, by simpa using ht, hfault⟩
  | _ => exact ⟨by simpa using hl, by simpa using hd, by simpa using ht, hfault⟩

theorem VideoMove.sequencerOk {s t : State} (hm : VideoMove s t) (h : s.video.SequencerOk s.cfg) :
    t.video.SequencerOk s.cfg := by
  cases hm with
  | inputs frame now =>
    rw [frame]
    exact ⟨h.line, h.deadline.trans now, h.tpf, h.fault⟩
  | effect i ws _ _ made => exact made.sequencerOk ⟨h.line, h.deadline, h.tpf, h.fault⟩
  | illegal ws _ _ made =>
    rw [made]
    exact ⟨h.line, h.deadline, h.tpf, by simp [FaultLatch.within, videoCauses]⟩
  | release _ made =>
    rw [made]
    exact ⟨(Nat.zero_le _).trans_lt h.line, Nat.zero_le _, Nat.zero_le _, rfl⟩

/-! ### The adapter (R46 to R48, R270) -/

/-- What `State.adapterOk` says where there is an audio domain. -/
structure AudioState.AdapterOk (c : Config) (a : AudioState) : Prop where
  voices : a.voices.length = c.nvoice
  window : a.fillActive = true → c.audioMode = .inline ∧ a.fault.valid = false
  fault : a.fault.within audioCauses = true

theorem State.adapterOk_absent_iff {s : State} (hs : s.cfg.sr = 0) :
    s.adapterOk = true ↔ s.audio = .absent 0 [] := by simp [adapterOk, hs]

theorem State.adapterOk_iff {s : State} (hs : s.cfg.sr ≠ 0) : s.adapterOk = true ↔ s.audio.AdapterOk s.cfg := by
  simp only [adapterOk, hs, if_false, Bool.and_eq_true, Bool.or_eq_true, Bool.not_eq_true', beq_iff_eq,
    decide_eq_true_eq]
  constructor
  · rintro ⟨⟨hv, hw⟩, hf⟩
    exact ⟨hv, fun ha => hw.resolve_left (by simp [ha]), hf⟩
  · rintro ⟨hv, hw, hf⟩
    exact ⟨⟨hv, (Bool.eq_false_or_eq_true _).symm.imp id hw⟩, hf⟩

section Adapter

variable {c : Config} {a a' : AudioState}

theorem AudioState.AdapterOk.raise {k : Cause} (h : a.AdapterOk c) (hk : k ∈ audioCauses) :
    (a.raise k).AdapterOk c :=
  ⟨by simpa using h.voices, by simp, by simpa using FaultLatch.within_raise h.fault hk⟩

theorem AudioState.AdapterOk.withAcmd (h : a.AdapterOk c) (ws : List Word) :
    ({ a with acmd := ws } : AudioState).AdapterOk c := ⟨h.voices, h.window, h.fault⟩

theorem AudioEffect.adapterOk {i : Instr} (he : AudioEffect c i a a') (h : a.AdapterOk c) : a'.AdapterOk c := by
  cases he with
  | fault k _ hk => exact h.raise hk
  | fillReturn err => exact ⟨by simpa using h.voices, by simp, by simpa using h.fault⟩
  | _ => exact ⟨by simpa using h.voices, by simpa using h.window, by simpa using h.fault⟩

theorem PullEffect.adapterOk {n : BitVec 16} (he : PullEffect c n a a') (h : a.AdapterOk c) : a'.AdapterOk c := by
  cases he with
  | silent => exact ⟨h.voices, h.window, h.fault⟩
  | enterFill hf hm => exact ⟨h.voices, fun _ => ⟨hm, hf⟩, h.fault⟩
  | buffered =>
    unfold AudioState.bufferedPull
    split <;> exact ⟨h.voices, h.window, h.fault⟩

theorem AudioState.adapterOk_present (c : Config) (draws : Nat) (es : List AEvent) :
    (AudioState.present c draws es).AdapterOk c :=
  ⟨by simp [present], by simp [present], rfl⟩

end Adapter

theorem AudioMove.adapterOk {s t : State} (hm : AudioMove s t) (hs : s.cfg.sr ≠ 0) (h : s.audio.AdapterOk s.cfg) :
    t.audio.AdapterOk s.cfg := by
  cases hm with
  | inputs frame => rw [frame]; exact ⟨h.voices, h.window, h.fault⟩
  | packet i ws _ _ _ made => exact made.adapterOk (h.withAcmd ws)
  | illegal ws _ _ _ made =>
    rw [made]
    exact (h.withAcmd ws).raise (by decide)
  | pull n _ _ _ made => exact made.adapterOk h
  | release _ made => rw [made, AudioState.resetWith_present hs]; exact AudioState.adapterOk_present ..

/-- With `SR = 0` nothing happens to the audio domain, and its release gives the value it has (R12). -/
theorem AudioMove.absent {s t : State} (hm : AudioMove s t) (hs : s.cfg.sr = 0) (h : s.audio = .absent 0 []) :
    t.audio = .absent 0 [] := by
  cases hm with
  | inputs _ habsent => exact (habsent hs).trans h
  | packet _ _ _ hp => exact absurd hs hp
  | illegal _ _ hp => exact absurd hs hp
  | pull _ _ hp => exact absurd hs hp
  | release _ made => rw [made, AudioState.resetWith_absent hs, h]; rfl

/-! ### The order of the video events (R184) -/

theorem tracePos_append (h : Nat) (es : List VEvent) (e : VEvent) :
    tracePos h (es ++ [e]) = tracePosStep h (tracePos h es) e := by
  simp [tracePos, List.foldl_append]

/-- What `State.traceOk` says, of the video domain alone. -/
structure VideoState.TraceOk (c : Config) (v : VideoState) : Prop where
  order : tracePos c.h v.events = some (v.expectedPos c.h)
  line : v.line.toNat < c.h

theorem State.traceOk_iff {s : State} : s.traceOk = true ↔ s.video.TraceOk s.cfg := by
  simp only [traceOk, Bool.and_eq_true, decide_eq_true_eq]
  exact ⟨fun ⟨ho, hl⟩ => ⟨ho, hl⟩, fun ⟨ho, hl⟩ => ⟨ho, hl⟩⟩

section EventOrder

variable {c : Config} {v : VideoState}

/-- Where nothing is emitted and the sequencer stays, the order is kept. -/
theorem VideoState.TraceOk.of_eq {v' : VideoState} (h : v.TraceOk c) (he : v'.events = v.events)
    (hp : v'.phase = v.phase) (hl : v'.line = v.line) : v'.TraceOk c :=
  ⟨by rw [he, h.order]; simp only [expectedPos, hp, hl], by rw [hl]; exact h.line⟩

/-- The frame boundary outside a frame begins the next one, or stops (R172). -/
theorem VideoState.TraceOk.enterFrame (h : v.TraceOk c) (hp : v.phase = .stopped ∨ v.phase = .pace) :
    v.enterFrame.TraceOk c := by
  have hout : tracePos c.h v.events = some .outside := by
    rw [h.order]
    rcases hp with hp | hp <;> simp [expectedPos, hp]
  rcases v.enterFrame_cases with ⟨-, he⟩ | ⟨-, he⟩ <;> rw [he]
  · exact ⟨by rw [tracePos_append, hout]; rfl, (Nat.zero_le _).trans_lt h.line⟩
  · exact ⟨hout, h.line⟩

/-- The return from a hook emits the next line's request, or the frame's lines are done (R174). `H` is below the
modulus of `SEQ.LINE`, so the next line is one above. -/
theorem VideoState.TraceOk.hookReturn (h : v.TraceOk c) (hH : c.h < 2 ^ 16) : (v.hookReturn c).TraceOk c := by
  have ho := h.order
  unfold expectedPos at ho
  rcases v.hookReturn_cases c with ⟨hp, he⟩ | ⟨hp, hl, he⟩ | ⟨hp, hl, he⟩ | he <;> rw [he]
  · have hpos : 0 < c.h := (Nat.zero_le _).trans_lt h.line
    simp only [hp] at ho
    exact ⟨by simp [enterScanline, emit, tracePos_append, ho, tracePosStep, hpos, expectedPos], hpos⟩
  · have hnext : (v.line + 1).toNat = v.line.toNat + 1 := by bv_omega
    simp only [hp] at ho
    have horder : (v.enterScanline (v.line + 1)).events = v.events ++ [.hookreqScanline (v.line + 1)] := rfl
    have hpos : (v.enterScanline (v.line + 1)).expectedPos c.h = .line (v.line + 1).toNat := rfl
    exact ⟨by simp only [horder, hpos, tracePos_append, ho, tracePosStep, hnext, hl, and_self, if_true], hnext ▸ hl⟩
  · simp only [hp] at ho
    exact ⟨by simp [ho, expectedPos, Nat.eq_sub_of_add_eq hl], h.line⟩
  · exact h

theorem VideoEffect.traceOk {i : Instr} {v' : VideoState} (he : VideoEffect c i v v') (hH : c.h < 2 ^ 16)
    (h : v.TraceOk c) : v'.TraceOk c := by
  have ho := h.order
  unfold VideoState.expectedPos at ho
  cases he with
  | run tpf _ hp =>
    exact VideoState.TraceOk.enterFrame (h.of_eq (v' := { v with tpf := tpf, deadline := v.now }) rfl rfl rfl) (.inl hp)
  | seqPace hp =>
    exact VideoState.TraceOk.enterFrame
      (h.of_eq (v' := { v with deadline := BitVec.ofNat 64 v.nextDeadline }) rfl rfl rfl) (.inr hp)
  | hookReturn => exact h.hookReturn hH
  | respond w =>
    exact ⟨by simp only [VideoState.respond, VideoState.emit, tracePos_append, h.order]; rfl, h.line⟩
  | seqFlip hp | seqCommit hp =>
    simp only [hp] at ho
    exact ⟨by simpa [VideoState.expectedPos] using ho, h.line⟩
  | seqPresent fb pal hp =>
    have hpos : c.h - 1 + 1 = c.h := Nat.sub_add_cancel ((Nat.zero_le _).trans_lt h.line)
    simp only [hp] at ho
    exact ⟨by simp [VideoState.emit, tracePos_append, ho, tracePosStep, hpos, VideoState.expectedPos], h.line⟩
  | _ => exact h.of_eq (by simp) (by simp) (by simp)

end EventOrder

theorem VideoMove.traceOk {s t : State} (hm : VideoMove s t) (hr : s.releasesReset = false)
    (hH : s.cfg.h < 2 ^ 16) (h : s.video.TraceOk s.cfg) : t.video.TraceOk s.cfg := by
  cases hm with
  | inputs frame => exact h.of_eq (by rw [frame]) (by rw [frame]) (by rw [frame])
  | effect i ws _ _ made =>
    exact made.traceOk hH (h.of_eq (v' := { s.video with vcmd := ws }) rfl rfl rfl)
  | illegal ws _ _ made => exact h.of_eq (by rw [made]) (by rw [made]) (by rw [made])
  | release hrel => simp [hr] at hrel

/-- The frame of R9 has at most 32767 lines. -/
theorem height_lt_of_wf {c : Config} (h : c.wf = true) : c.h < 2 ^ 16 := by
  simp only [Config.wf, decide_eq_true_eq] at h
  omega

end Sys2Proof.Machine

namespace Sys2Proof.Proofs

open Sys2Proof Sys2Proof.Machine

/-- Settles O13: every effect writes inside its memory, and every write keeps the canonical form. -/
theorem stepKeepsMemories : Obligations.StepKeepsMemories := by
  intro s t h hm
  rw [State.memoriesOk, Bool.and_eq_true] at hm ⊢
  rw [step_cfg h]
  exact ⟨(step_videoMove h).memoriesOk hm.1, (step_audioMove h).memoriesOk hm.2⟩

/-- Settles O14: PACE's guard keeps the deadline at or below `NOW`, RUN's quotient the period below a second, the
return from a hook the line inside the frame. -/
theorem stepKeepsSequencer : Obligations.StepKeepsSequencer := by
  intro s t h hs
  rw [State.sequencerOk_iff] at hs ⊢
  rw [step_cfg h]
  exact (step_videoMove h).sequencerOk hs

/-- Settles O15: only an answered PULL in INLINE mode opens a window, and every fault closes it; with `SR = 0` there
is nothing to step. -/
theorem stepKeepsAdapter : Obligations.StepKeepsAdapter := by
  intro s t h ha
  have hc := step_cfg h
  by_cases hs : s.cfg.sr = 0
  · rw [State.adapterOk_absent_iff hs] at ha
    rw [State.adapterOk_absent_iff (by rw [hc, hs])]
    exact (step_audioMove h).absent hs ha
  · rw [State.adapterOk_iff hs] at ha
    rw [State.adapterOk_iff (by rwa [hc]), hc]
    exact (step_audioMove h).adapterOk hs ha

/-- Settles O16: each effect emits the event that its phase expects next, or none. -/
theorem stepKeepsEventOrder : Obligations.StepKeepsEventOrder := by
  intro s t hwf hr h ht
  rw [State.traceOk_iff] at ht ⊢
  rw [step_cfg h]
  exact (step_videoMove h).traceOk hr (height_lt_of_wf hwf) ht

end Sys2Proof.Proofs
end

section
/-! PROOFS of the statement on the arithmetic (`spec/00_scope.md` R13). The rounded significand is the nearest integer,
ties to even, to the quotient by the result's unit; a value of a smaller exponent lies below the least significand of
that exponent. So no magnitude is nearer, and the overflow bound is half a unit above the largest one. -/

namespace Sys2Proof.Machine

/-! ### Rounding to an integer -/

/-- The rounded quotient is off by half the divisor at most, and by less where it is odd. -/
theorem roundEven_near {num den : Nat} (hden : 0 < den) :
    2 * (roundEven num den * den) ≤ 2 * num + den ∧ 2 * num ≤ 2 * (roundEven num den * den) + den ∧
      (roundEven num den % 2 = 1 →
        2 * (roundEven num den * den) < 2 * num + den ∧ 2 * num < 2 * (roundEven num den * den) + den) := by
  have hdiv := Nat.div_add_mod' num den
  have hmod := Nat.mod_lt num hden
  have hsucc : (num / den + 1) * den = num / den * den + den := Nat.succ_mul _ _
  unfold roundEven
  dsimp only
  split
  · rw [hsucc]; omega
  · omega

/-- No integer is nearer to the quotient; where another is as near, the rounded one is even. -/
theorem roundEven_nearest {num den : Nat} (hden : 0 < den) (k : Nat) :
    |((roundEven num den * den : Nat) : Int) - num| ≤ |((k * den : Nat) : Int) - num| ∧
      (|((roundEven num den * den : Nat) : Int) - num| = |((k * den : Nat) : Int) - num| →
        k ≠ roundEven num den → roundEven num den % 2 = 0) := by
  obtain ⟨hlo, hhi, hodd⟩ := roundEven_near (num := num) hden
  simp only [Int.abs_eq_natAbs]
  set r := roundEven num den
  rcases Nat.lt_trichotomy k r with hlt | rfl | hlt
  · have hstep : (k + 1) * den ≤ r * den := Nat.mul_le_mul_right den hlt
    rw [Nat.succ_mul] at hstep
    omega
  · exact ⟨le_rfl, fun _ hne => absurd rfl hne⟩
  · have hstep : (r + 1) * den ≤ k * den := Nat.mul_le_mul_right den hlt
    rw [Nat.succ_mul] at hstep
    omega

/-- The quotient reaches an even integer by rounding from half below it on. -/
theorem le_roundEven_iff {num den k : Nat} (hden : 0 < den) (hk : k % 2 = 0) :
    k ≤ roundEven num den ↔ 2 * (k * den) ≤ 2 * num + den := by
  obtain ⟨hlo, hhi, hodd⟩ := roundEven_near (num := num) hden
  set r := roundEven num den
  constructor
  · intro hle
    have hmul : k * den ≤ r * den := Nat.mul_le_mul_right den hle
    omega
  · intro hle
    by_contra hlt
    rcases Nat.lt_or_ge (r + 1) k with hfar | hnear
    · have hmul : (r + 2) * den ≤ k * den := Nat.mul_le_mul_right den hfar
      rw [Nat.add_mul] at hmul
      omega
    · have hk' : k = r + 1 := by omega
      rw [hk', Nat.succ_mul r] at hle
      have := (hodd (by omega)).2
      omega

/-! ### The unit of the result -/

/-- The exact result lies below twice the hidden bit, in units of the result. -/
theorem num_lt_two_hidden (f : Fmt) {num den : Nat} (hden : 0 < den) :
    num < 2 * hidden f * (den * 2 ^ roundExp f num den) := by
  have hpow : 2 ^ (Nat.log2 (num / den) + 1) ≤ 2 ^ prec f * 2 ^ roundExp f num den := by
    rw [← pow_add]
    exact Nat.pow_le_pow_right (by norm_num) (by unfold roundExp; omega)
  calc num < (num / den + 1) * den := by rw [Nat.mul_comm]; exact Nat.lt_mul_div_succ num hden
    _ ≤ 2 ^ (Nat.log2 (num / den) + 1) * den := Nat.mul_le_mul_right _ (lt_two_pow_log2 _)
    _ ≤ 2 ^ prec f * 2 ^ roundExp f num den * den := Nat.mul_le_mul_right _ hpow
    _ = 2 * hidden f * (den * 2 ^ roundExp f num den) := by rw [two_hidden]; ring

/-- Above the least exponent the exact result reaches the hidden bit. -/
theorem hidden_le_num (f : Fmt) {num den : Nat} (hq : 0 < roundExp f num den) :
    hidden f * (den * 2 ^ roundExp f num den) ≤ num := by
  have hp := prec_pos f
  have hquot : num / den ≠ 0 := by
    intro h0
    have hlog : Nat.log2 0 = 0 := by decide
    unfold roundExp at hq
    rw [h0, hlog] at hq
    omega
  have hexp : prec f - 1 + roundExp f num den = Nat.log2 (num / den) := by unfold roundExp at *; omega
  calc hidden f * (den * 2 ^ roundExp f num den)
      = 2 ^ (prec f - 1 + roundExp f num den) * den := by unfold hidden; rw [pow_add]; ring
    _ = 2 ^ Nat.log2 (num / den) * den := by rw [hexp]
    _ ≤ num / den * den := Nat.mul_le_mul_right _ (two_pow_log2_le hquot)
    _ ≤ num := Nat.div_mul_le_self _ _

theorem magValue_roundMag (f : Fmt) {num den : Nat} (hden : 0 < den) :
    magValue f (roundMag f num den) * den =
      roundEven num (den * 2 ^ roundExp f num den) * (den * 2 ^ roundExp f num den) := by
  obtain ⟨hle, hge⟩ := round_sig f (num := num) hden
  unfold roundMag
  rw [magValue_of f hle hge]
  ring

theorem roundMag_even_iff (f : Fmt) (num den : Nat) :
    roundMag f num den % 2 = roundEven num (den * 2 ^ roundExp f num den) % 2 := by
  have heven : hidden f % 2 = 0 := by cases f <;> decide
  unfold roundMag
  rw [Nat.add_mod, Nat.mul_mod, heven]
  simp

/-- No magnitude of the format is nearer to the exact result than the rounded one; where another is as near, the
rounded one is even. -/
theorem roundMag_nearest (f : Fmt) {num den : Nat} (hden : 0 < den) (mag : Nat) :
    |((magValue f (roundMag f num den) * den : Nat) : Int) - num| ≤ |((magValue f mag * den : Nat) : Int) - num| ∧
      (|((magValue f (roundMag f num den) * den : Nat) : Int) - num| = |((magValue f mag * den : Nat) : Int) - num| →
        magValue f mag ≠ magValue f (roundMag f num den) → roundMag f num den % 2 = 0) := by
  have hround := magValue_roundMag f (num := num) hden
  rw [roundMag_even_iff]
  set q := roundExp f num den with hq
  set r := roundEven num (den * 2 ^ q) with hr
  have hunit : 0 < den * 2 ^ q := by positivity
  rcases Nat.lt_or_ge (magExp f mag) q with hlow | hhigh
  · have hnum : hidden f * (den * 2 ^ q) ≤ num := hidden_le_num f (by omega)
    have hnear := (roundEven_nearest (num := num) hunit (hidden f)).1
    have hbelow : magValue f mag * den < hidden f * (den * 2 ^ q) := by
      have hsig := (mag_split f mag).2.1
      have hpow : 2 ^ (magExp f mag + 1) ≤ 2 ^ q := Nat.pow_le_pow_right (by norm_num) hlow
      calc magValue f mag * den < 2 * hidden f * 2 ^ magExp f mag * den := by
            unfold magValue
            gcongr
        _ = hidden f * (den * 2 ^ (magExp f mag + 1)) := by rw [pow_succ]; ring
        _ ≤ hidden f * (den * 2 ^ q) := by gcongr
    rw [← hr] at hnear
    rw [hround]
    simp only [Int.abs_eq_natAbs] at hnear ⊢
    omega
  · have hmul : magValue f mag * den = magSig f mag * 2 ^ (magExp f mag - q) * (den * 2 ^ q) := by
      have hpow : 2 ^ magExp f mag = 2 ^ (magExp f mag - q) * 2 ^ q := by rw [← pow_add, Nat.sub_add_cancel hhigh]
      unfold magValue
      rw [hpow]
      ring
    rw [hround, hmul]
    obtain ⟨hnear, htie⟩ := roundEven_nearest (num := num) hunit (magSig f mag * 2 ^ (magExp f mag - q))
    refine ⟨hnear, fun heq hne => htie heq ?_⟩
    rintro hsame
    rw [hsame, ← hr, ← hround] at hmul
    exact hne (Nat.eq_of_mul_eq_mul_right hden hmul)

/-! ### Overflow -/

/-- The exponent of the largest finite values. -/
def topExp (f : Fmt) : Nat := scale f + maxExp f + 1 - prec f

theorem infBits_eq (f : Fmt) : infBits f = topExp f * hidden f + 2 * hidden f := by cases f <;> decide +kernel

theorem twiceOverflow_eq (f : Fmt) :
    twiceOverflow f = (((4 * hidden f - 1) * 2 ^ topExp f : Nat) : Int) := by cases f <;> decide +kernel

/-- Rounding overflows from half a unit above the largest finite value on. -/
theorem infBits_le_roundMag_iff (f : Fmt) {num den : Nat} (hden : 0 < den) :
    infBits f ≤ roundMag f num den ↔ (4 * hidden f - 1) * 2 ^ topExp f * den ≤ 2 * num := by
  have hB := hidden_pos f
  obtain ⟨hsigLe, hsigGe⟩ := round_sig f (num := num) hden
  have hlt := num_lt_two_hidden f (num := num) hden
  have hge := @hidden_le_num f num den
  have heven : 2 * hidden f % 2 = 0 := Nat.mul_mod_right 2 _
  have hbound : (4 * hidden f - 1) * 2 ^ topExp f * den + den * 2 ^ topExp f =
      4 * (hidden f * (den * 2 ^ topExp f)) := by
    obtain ⟨k, hk⟩ : ∃ k, 4 * hidden f = k + 1 := ⟨4 * hidden f - 1, by omega⟩
    rw [← Nat.mul_assoc 4, hk, Nat.add_sub_cancel]
    ring
  rw [infBits_eq]
  unfold roundMag
  set q := roundExp f num den
  rcases Nat.lt_trichotomy q (topExp f) with hq | hq | hq
  · have hmul : (q + 1) * hidden f ≤ topExp f * hidden f := Nat.mul_le_mul_right _ hq
    rw [Nat.succ_mul] at hmul
    have hpow : den * 2 ^ (q + 1) ≤ den * 2 ^ topExp f := by gcongr <;> omega
    have hnum : 2 * num < 2 * (hidden f * (den * 2 ^ topExp f)) := by
      have : hidden f * (den * 2 ^ (q + 1)) ≤ hidden f * (den * 2 ^ topExp f) := Nat.mul_le_mul_left _ hpow
      rw [pow_succ] at this
      nlinarith
    have hunit : den * 2 ^ topExp f ≤ hidden f * (den * 2 ^ topExp f) := Nat.le_mul_of_pos_left _ hB
    omega
  · rw [hq] at hsigLe ⊢
    have hiff := le_roundEven_iff (num := num) (show 0 < den * 2 ^ topExp f by positivity) heven
    rw [Nat.mul_assoc 2] at hiff
    omega
  · have hmul : (topExp f + 1) * hidden f ≤ q * hidden f := Nat.mul_le_mul_right _ hq
    rw [Nat.succ_mul] at hmul
    have hsig := hsigGe (by omega)
    have hnum := hge (by omega)
    have hpow : hidden f * (den * 2 ^ (topExp f + 1)) ≤ hidden f * (den * 2 ^ q) := by gcongr <;> omega
    rw [pow_succ] at hpow
    have hassoc : hidden f * (den * (2 ^ topExp f * 2)) = 2 * (hidden f * (den * 2 ^ topExp f)) := by ring
    omega

/-! ### Signs -/

theorem exactValue_fin {f : Fmt} {x : FReal} {a : Bool} {n : Nat} (h : unpack f x = .fin a n) :
    exactValue f x = signed a n := by simp [exactValue, h]

theorem HasValue.exactValue_eq {f : Fmt} {x : FReal} {v : Int} (h : HasValue f x v) : exactValue f x = v := by
  obtain ⟨a, n, hx, rfl⟩ := h
  exact exactValue_fin hx

theorem hasValue_of_isFinite {f : Fmt} {x : FReal} (h : isFinite f x = true) : HasValue f x (exactValue f x) := by
  obtain ⟨a, n, hx⟩ := isFinite_iff.mp h
  exact ⟨a, n, hx, (exactValue_fin hx).symm⟩

theorem HasValue.isFinite {f : Fmt} {x : FReal} {v : Int} (h : HasValue f x v) : isFinite f x = true := by
  obtain ⟨a, n, hx, -⟩ := h
  exact isFinite_iff.mpr ⟨a, n, hx⟩

/-- The lowest bit of a pattern is the lowest bit of its magnitude. -/
theorem getLsbD_zero_withSign {f : Fmt} {neg : Bool} {mag : Nat} (h : mag % 2 = 0) :
    (withSign f neg mag).getLsbD 0 = false := by
  have hw : 2 ^ (width f - 1) % 2 = 0 := by cases f <;> decide
  have heven : (if neg then 2 ^ (width f - 1) + mag else mag) % 2 = 0 := by split <;> omega
  simp only [withSign, BitVec.getLsbD_ofNat, Nat.testBit_zero, heven]
  simp

/-- The distance of two values of one sign is that of their magnitudes. -/
theorem abs_signed_sub (neg : Bool) (m n den : Nat) :
    |signed neg m * den - signed neg n| = |((m * den : Nat) : Int) - n| := by
  cases neg with
  | false => simp [signed]
  | true =>
    have hneg : signed true m * den - signed true n = -(((m * den : Nat) : Int) - n) := by
      simp only [signed, if_true]
      push_cast
      ring
    rw [hneg, abs_neg]

/-- The distance of two values of opposite signs is the sum of their magnitudes. -/
theorem abs_signed_not_sub (neg : Bool) (m n den : Nat) :
    |signed (!neg) m * den - signed neg n| = ((m * den + n : Nat) : Int) := by
  have hnonneg : (0 : Int) ≤ ((m * den + n : Nat) : Int) := Int.natCast_nonneg _
  rw [← abs_of_nonneg hnonneg]
  cases neg with
  | false =>
    rw [← abs_neg]
    congr 1
    simp [signed]
    ring
  | true => simp [signed]

theorem abs_signed (neg : Bool) (n : Nat) : |signed neg n| = n := by cases neg <;> simp [signed]

/-- Rounding does not depend on which side of the fraction carries the sign. -/
theorem isRounded_neg {f : Fmt} {p d : Int} {r : FReal} (h : IsRounded f (-p) (-d) r) : IsRounded f p d r := by
  have hdist : ∀ x : Int, |x * -d - -p| = |x * d - p| := fun x => by
    rw [← abs_neg]
    congr 1
    ring
  simpa only [IsRounded, hdist, abs_neg, neg_mul_neg] using h

/-! ### The operations are rounded (R13) -/

section Rounded

variable {f : Fmt}

theorem isRounded_fround (neg : Bool) (num : Nat) {den : Nat} (hden : 0 < den) :
    IsRounded f (signed neg num) den (fround f neg num den) := by
  have hoverflow := infBits_le_roundMag_iff f (num := num) hden
  have hbound : twiceOverflow f * |(den : Int)| = (((4 * hidden f - 1) * 2 ^ topExp f * den : Nat) : Int) := by
    rw [twiceOverflow_eq, Nat.abs_cast]
    push_cast
    rfl
  unfold IsRounded
  rw [abs_signed, hbound]
  refine ⟨fun hlt => ?_, fun hge => ?_⟩
  · have hmag : roundMag f num den < infBits f := by omega
    have hread := unpack_fround (neg := neg) hmag
    refine ⟨isFinite_iff.mpr ⟨_, _, hread⟩, fun z hz => ?_⟩
    obtain ⟨b, n, hzread⟩ := isFinite_iff.mp hz
    obtain ⟨mag, -, rfl⟩ := unpack_fin hzread
    rw [exactValue_fin hread, exactValue_fin hzread, abs_signed_sub]
    have hpattern : fround f neg num den = withSign f neg (roundMag f num den) := by
      rw [fround_eq, if_neg (by omega)]
    rcases eq_or_ne b neg with rfl | hb
    · obtain ⟨hnear, htie⟩ := roundMag_nearest f (num := num) hden mag
      rw [abs_signed_sub]
      refine ⟨hnear, fun heq hne => ?_⟩
      rw [hpattern]
      exact getLsbD_zero_withSign (htie heq fun hsame => hne (by rw [hsame]))
    · obtain rfl : b = !neg := Bool.eq_not_of_ne hb
      obtain ⟨hnear, htie⟩ := roundMag_nearest f (num := num) hden 0
      simp only [magValue_zero, Nat.zero_mul, Nat.cast_zero, zero_sub, abs_neg, Nat.abs_cast] at hnear htie
      rw [abs_signed_not_sub]
      refine ⟨hnear.trans (by omega), fun heq hne => ?_⟩
      have hzero : magValue f mag = 0 := (Nat.mul_eq_zero.mp (by omega)).resolve_right hden.ne'
      rw [hpattern]
      refine getLsbD_zero_withSign (htie (by rw [heq, hzero, Nat.zero_mul, Nat.zero_add]) fun hsame => hne ?_)
      rw [hzero, ← hsame]
      cases neg <;> rfl
  · have hmag := hoverflow.mpr (by omega)
    have hpos : 0 < num := by
      have : 0 < (4 * hidden f - 1) * 2 ^ topExp f * den := by
        have := hidden_pos f
        have : 0 < 4 * hidden f - 1 := by omega
        positivity
      omega
    rw [fround_eq, if_pos hmag, unpack_infPattern]
    cases neg <;> simp [signed, hden, hpos]

/-- An exact zero is a zero. -/
theorem isRounded_zero (neg : Bool) {d : Int} (hd : d ≠ 0) : IsRounded f 0 d (withSign f neg 0) := by
  have hval := hasValue_withSign_zero f neg
  have hpos : 0 < twiceOverflow f * |d| := by
    have htop : 0 < twiceOverflow f := by cases f <;> decide +kernel
    positivity
  refine ⟨fun _ => ⟨hval.isFinite, fun z _ => ?_⟩, fun hge => ?_⟩
  · rw [hval.exactValue_eq]
    simp only [zero_mul, sub_zero, abs_zero]
    refine ⟨abs_nonneg _, fun heq hne => absurd ?_ hne⟩
    exact (mul_eq_zero.mp (abs_eq_zero.mp heq.symm)).resolve_right hd
  · rw [abs_zero, mul_zero] at hge
    omega

theorem isRounded_roundInt (zeroNeg : Bool) (n : Int) {den : Nat} (hden : 0 < den) :
    IsRounded f n den (roundInt f zeroNeg n den) := by
  unfold roundInt
  split
  · next h0 => rw [h0]; exact isRounded_zero zeroNeg (by omega)
  · have h := isRounded_fround (f := f) (decide (n < 0)) n.natAbs hden
    rwa [signed_natAbs] at h

variable {x y : FReal} {v w : Int}

theorem HasValue.isRounded_fadd (hx : HasValue f x v) (hy : HasValue f y w) : IsRounded f (v + w) 1 (fadd f x y) := by
  obtain ⟨a, m, hm, rfl⟩ := hx
  obtain ⟨b, n, hn, rfl⟩ := hy
  unfold fadd
  rw [hm, hn]
  exact isRounded_roundInt _ _ Nat.one_pos

theorem HasValue.isRounded_fsub (hx : HasValue f x v) (hy : HasValue f y w) : IsRounded f (v - w) 1 (fsub f x y) :=
  hx.isRounded_fadd hy.neg

theorem HasValue.isRounded_fmul (hx : HasValue f x v) (hy : HasValue f y w) :
    IsRounded f (v * w) (2 ^ scale f) (fmul f x y) := by
  obtain ⟨a, m, hm, rfl⟩ := hx
  obtain ⟨b, n, hn, rfl⟩ := hy
  rw [← signed_mul]
  unfold fmul
  rw [hm, hn]
  dsimp only
  split
  · next h0 =>
    have hs : signed (a != b) (m * n) = 0 := by rw [h0]; cases a != b <;> rfl
    rw [hs]
    exact isRounded_zero _ (by positivity)
  · have h := isRounded_fround (f := f) (a != b) (m * n) (den := 2 ^ scale f) (by positivity)
    push_cast at h
    exact h

theorem HasValue.isRounded_fdiv (hx : HasValue f x v) (hy : HasValue f y w) (hw : w ≠ 0) :
    IsRounded f (v * 2 ^ scale f) w (fdiv f x y) := by
  obtain ⟨a, m, hm, rfl⟩ := hx
  obtain ⟨b, n, hn, rfl⟩ := hy
  have hn0 : n ≠ 0 := by rintro rfl; exact hw (by cases b <;> rfl)
  have hscale : signed a m * 2 ^ scale f = signed a (m * 2 ^ scale f) := by cases a <;> simp [signed]
  unfold fdiv
  rw [hm, hn]
  dsimp only
  rw [if_neg hn0, hscale]
  split
  · next h0 =>
    have hs : signed a (m * 2 ^ scale f) = 0 := by rw [h0, Nat.zero_mul]; cases a <;> rfl
    rw [hs]
    exact isRounded_zero _ hw
  · have h := isRounded_fround (f := f) (a != b) (m * 2 ^ scale f) (Nat.pos_of_ne_zero hn0)
    cases b with
    | false => simpa [signed] using h
    | true =>
      refine isRounded_neg ?_
      rw [← signed_not]
      simpa [signed] using h

end Rounded

end Sys2Proof.Machine

namespace Sys2Proof.Proofs

open Sys2Proof Sys2Proof.Machine

/-- Settles O60: the four operations round an exact integer quotient; the sign change is exact. -/
theorem arithmeticRoundsToNearest : Obligations.ArithmeticRoundsToNearest := by
  intro f x y hx hy
  have hvx := hasValue_of_isFinite hx
  have hvy := hasValue_of_isFinite hy
  exact ⟨hvx.isRounded_fadd hvy, hvx.isRounded_fsub hvy, hvx.isRounded_fmul hvy, hvx.isRounded_fdiv hvy⟩

end Sys2Proof.Proofs
end

section
/-! PROOFS of the invariants of the voices (`spec/43_oscillator.md`, `spec/44_envelope.md`, `spec/45_biquad.md`). A
voice changes by one of its effects only. The phase is wrapped below 1 whatever the rounding does, because the sum it
wraps never overflows; an envelope's step is a value not below 0, or an infinity that the stage's comparison catches. -/

namespace Sys2Proof.Machine

/-! ### The voices after a step -/

theorem AudioEffect.voices_cases {c : Config} {i : Instr} {a a' : AudioState} (h : AudioEffect c i a a') :
    a'.voices = a.voices ∨
    ∃ (v : Byte) (vc vc' : Voice), unitOf i = some v ∧ a.voices[v.toNat]? = some vc ∧
      VoiceEffect c i (drawNoise c.fmt a.draws) vc vc' ∧ a'.voices = a.voices.set v.toNat vc' := by
  cases h with
  | voice v vc r hu hv made => exact .inr ⟨v, vc, r.voice, hu, hv, made, by simp⟩
  | _ => exact .inl (by simp)

theorem PullEffect.voices {c : Config} {n : BitVec 16} {a a' : AudioState} (h : PullEffect c n a a') :
    a'.voices = a.voices := by
  cases h with
  | silent | enterFill => rfl
  | buffered =>
    unfold AudioState.bufferedPull
    split <;> rfl

theorem mem_voices_resetWith {c : Config} {draws : Nat} {es : List AEvent} {vc : Voice}
    (h : vc ∈ (AudioState.resetWith c draws es).voices) : ∃ k, vc = Voice.reset c.fmt k := by
  by_cases hs : c.sr = 0
  · rw [AudioState.resetWith_absent hs] at h
    cases h
  · rw [AudioState.resetWith_present hs] at h
    obtain ⟨v, -, rfl⟩ := List.mem_map.mp h
    exact ⟨_, rfl⟩

/-- A property of single voices that holds at reset and after every effect is kept by every step. -/
theorem step_keeps_voices {s t : State} {P : Voice → Prop} (h : step s = .next t)
    (hreset : ∀ k, P (Voice.reset s.cfg.fmt k))
    (heffect : ∀ i draw vc vc', s.cfg.sr ≠ 0 → inUnit s.cfg.fmt draw = true → VoiceEffect s.cfg i draw vc vc' →
      P vc → P vc')
    (hs : ∀ vc ∈ s.audio.voices, P vc) : ∀ vc ∈ t.audio.voices, P vc := by
  cases step_audioMove h with
  | inputs frame => rw [frame]; exact hs
  | packet i ws _ present _ made =>
    rcases made.voices_cases with hv | ⟨v, vc, vc', -, hvc, he, hv⟩ <;> rw [hv]
    · exact hs
    · intro u hu
      rcases List.mem_or_eq_of_mem_set hu with hu | rfl
      · exact hs u hu
      · exact heffect i _ vc _ present (inUnit_drawNoise _ _) he (hs vc (List.mem_of_getElem? hvc))
  | illegal ws _ _ _ made => rw [made, AudioState.raise_voices]; exact hs
  | pull n _ _ _ made => rw [made.voices]; exact hs
  | release _ made =>
    rw [made]
    intro vc hvc
    obtain ⟨k, rfl⟩ := mem_voices_resetWith hvc
    exact hreset k

/-! ### Filters (R44, R242) -/

theorem Param.holds_written {α : Type} {x : α} {ok : α → Bool} (h : ok x = true) :
    (⟨x, true⟩ : Param α).holds ok = true := h

/-- What `Filter.ok` says, as named facts. -/
structure Filter.Finite (f : Fmt) (fl : Filter) : Prop where
  cutoff : fl.cutoff.holds (isFinite f) = true
  res : fl.res.holds (isFinite f) = true
  x1 : isFinite f fl.x1 = true
  x2 : isFinite f fl.x2 = true
  y1 : isFinite f fl.y1 = true
  y2 : isFinite f fl.y2 = true

theorem Filter.ok_iff {f : Fmt} {fl : Filter} : fl.ok f = true ↔ fl.Finite f := by
  simp only [Filter.ok, Bool.and_eq_true]
  exact ⟨fun ⟨⟨⟨⟨⟨hc, hr⟩, h1⟩, h2⟩, h3⟩, h4⟩ => ⟨hc, hr, h1, h2, h3, h4⟩,
    fun ⟨hc, hr, h1, h2, h3, h4⟩ => ⟨⟨⟨⟨⟨hc, hr⟩, h1⟩, h2⟩, h3⟩, h4⟩⟩

/-- The refresh writes coefficients and `DIRTY` only (R247). -/
theorem Filter.refresh_keeps {c : Config} {fl fl' : Filter} (h : fl.refresh c = .ok fl') :
    fl'.cutoff = fl.cutoff ∧ fl'.res = fl.res ∧ fl'.x1 = fl.x1 ∧ fl'.y1 = fl.y1 := by
  unfold Filter.refresh Filter.design at h
  repeat' split at h
  all_goals cases h
  · split at * <;> rename_i hd <;> cases hd
    exact ⟨rfl, rfl, rfl, rfl⟩
  · exact ⟨rfl, rfl, rfl, rfl⟩

theorem isFinite_fzero (f : Fmt) : isFinite f fzero = true := (hasValue_fzero f).isFinite

theorem FilterEffect.finite {c : Config} {fl fl' : Filter} (he : FilterEffect c fl fl') (h : fl.Finite c.fmt) :
    fl'.Finite c.fmt := by
  have h0 := isFinite_fzero c.fmt
  cases he with
  | keep => exact h
  | rst => exact ⟨h.cutoff, h.res, h0, h0, h0, h0⟩
  | ftype => exact ⟨h.cutoff, h.res, h.x1, h.x2, h.y1, h.y2⟩
  | cutoff r hr => exact ⟨Param.holds_written hr, h.res, h.x1, h.x2, h.y1, h.y2⟩
  | res r hr => exact ⟨h.cutoff, Param.holds_written hr, h.x1, h.x2, h.y1, h.y2⟩
  | process hx made =>
    unfold Filter.process at made
    split at made
    · cases made
    next fresh hr =>
    dsimp only at made
    split at made <;> cases made
    next hy =>
    obtain ⟨hcut, hres, hx1, hy1⟩ := Filter.refresh_keeps hr
    exact ⟨hcut ▸ h.cutoff, hres ▸ h.res, hx, hx1 ▸ h.x1, hy, hy1 ▸ h.y1⟩

theorem Filter.finite_reset (f : Fmt) : Filter.reset.Finite f :=
  have h0 := isFinite_fzero f
  ⟨rfl, rfl, h0, h0, h0, h0⟩

/-! ### The largest finite value -/

/-- The largest finite value, in units of the least positive one. -/
def maxUnits (f : Fmt) : Int := magValue f (infBits f - 1)

theorem hasValue_max (f : Fmt) : HasValue f (withSign f false (infBits f - 1)) (maxUnits f) := by
  have hpos : infBits f ≠ 0 := by cases f <;> decide
  exact ⟨false, _, unpack_withSign f false (by omega), rfl⟩

theorem HasValue.abs_le_max {f : Fmt} {x : FReal} {v : Int} (h : HasValue f x v) : |v| ≤ maxUnits f := by
  obtain ⟨a, n, hx, rfl⟩ := h
  obtain ⟨mag, hlt, rfl⟩ := unpack_fin hx
  rw [abs_signed]
  exact Int.ofNat_le.mpr (magValue_mono f (by omega))

/-- The largest finite value is an integer. -/
theorem oneUnits_dvd_max (f : Fmt) : oneUnits f ∣ maxUnits f := by
  have hmod : maxUnits f % oneUnits f = 0 := by cases f <;> decide +kernel
  exact Int.dvd_of_emod_eq_zero hmod

/-- The largest finite value and 1 are together below the overflow bound (R13). -/
theorem max_add_one_lt_overflow (f : Fmt) : 2 * (maxUnits f + oneUnits f) < twiceOverflow f := by
  cases f <;> decide +kernel

/-! ### The wrapped phase (R204) -/

/-- The floor of a finite value is a finite value not above it, and what is left over is finite too. -/
theorem HasValue.exists_floor {f : Fmt} {q : FReal} {v : Int} (hq : HasValue f q v) :
    ∃ w, HasValue f (ffloor f q) w ∧ w ≤ v ∧ v - w ≤ maxUnits f := by
  have hone := oneUnits_pos f
  have hmax := abs_le.mp hq.abs_le_max
  have hbelow : v / oneUnits f * oneUnits f ≤ v := Int.ediv_mul_le v hone.ne'
  have heq : ffloor f q = roundInt f false (v / oneUnits f * oneUnits f) 1 := by
    obtain ⟨a, n, hx, rfl⟩ := hq
    unfold ffloor
    rw [hx]
    rfl
  rw [heq]
  rcases lt_or_ge v 0 with hneg | hnonneg
  · obtain ⟨k, hk⟩ := oneUnits_dvd_max f
    have hfloor : -maxUnits f ≤ v / oneUnits f * oneUnits f := by
      have hle : -k ≤ v / oneUnits f := (Int.le_ediv_iff_mul_le hone).mpr (by rw [neg_mul, mul_comm, ← hk]; omega)
      calc -maxUnits f = -k * oneUnits f := by rw [hk]; ring
        _ ≤ v / oneUnits f * oneUnits f := mul_le_mul_of_nonneg_right hle hone.le
    obtain ⟨w, hw, hlo, hhi⟩ :=
      between_roundInt (n := v / oneUnits f * oneUnits f) (hasValue_max f).neg hq false Nat.one_pos
      (by omega) (by omega)
    exact ⟨w, hw, hhi, by omega⟩
  · have hfloor : 0 ≤ v / oneUnits f * oneUnits f := mul_nonneg (Int.ediv_nonneg hnonneg hone.le) hone.le
    obtain ⟨w, hw, hlo, hhi⟩ :=
      between_roundInt (n := v / oneUnits f * oneUnits f) (hasValue_fzero f) hq false Nat.one_pos
      (by omega) (by omega)
    exact ⟨w, hw, hhi, by omega⟩

/-- `0 ≤ PHASE < 1` (R41). -/
def InPhaseRange (f : Fmt) (p : FReal) : Prop := fle f fzero p = true ∧ flt f p (fone f) = true

theorem inPhaseRange_fzero (f : Fmt) : InPhaseRange f fzero := by
  have hone := oneUnits_pos f
  have hzero := hasValue_fzero f
  exact ⟨(hzero.fle_iff hzero).mpr le_rfl, (hzero.flt_iff (hasValue_fone f)).mpr hone⟩

/-- The wrapped phase of a finite sum is in [0, 1): the guard catches the 1 that rounding may give. -/
theorem HasValue.inPhaseRange_wrapPhase {f : Fmt} {q : FReal} {v : Int} (hq : HasValue f q v) :
    InPhaseRange f (wrapPhase f q) := by
  obtain ⟨w, hw, hle, hrest⟩ := hq.exists_floor
  obtain ⟨r, hr, hnonneg, -⟩ := between_fsub (hasValue_fzero f) (hasValue_max f) hq hw (by omega) (by omega)
  unfold wrapPhase
  dsimp only
  split
  · exact inPhaseRange_fzero f
  · next hlt =>
    rw [(hasValue_fone f).fle_iff hr] at hlt
    exact ⟨((hasValue_fzero f).fle_iff hr).mpr hnonneg, (hr.flt_iff (hasValue_fone f)).mpr (by omega)⟩

/-- A phase and a finite increment never overflow (R13). -/
theorem exists_hasValue_phase_add {f : Fmt} {p inc : FReal} (hp : InPhaseRange f p)
    (hinc : isFinite f inc = true) : ∃ v, HasValue f (fadd f p inc) v := by
  obtain ⟨v, hv, hv0, hv1⟩ := exists_hasValue_phase hp.1 hp.2
  have hi := hasValue_of_isFinite hinc
  have hsum : |v + exactValue f inc| ≤ oneUnits f + maxUnits f :=
    (abs_add_le _ _).trans (add_le_add (by rw [abs_of_nonneg hv0]; omega) hi.abs_le_max)
  have hbound := max_add_one_lt_overflow f
  have hfin := ((hv.isRounded_fadd hi).1 (by rw [abs_one, mul_one]; omega)).1
  exact ⟨_, hasValue_of_isFinite hfin⟩

/-! ### Oscillators (R40, R41) -/

/-- What `Osc.ok` says, as named facts. -/
structure Osc.Ok (f : Fmt) (o : Osc) : Prop where
  phase : InPhaseRange f o.phase
  noise : inUnit f o.noise = true
  freq : o.freq.holds (isFinite f) = true
  detune : o.detune.holds (isFinite f) = true

theorem Osc.ok_iff {f : Fmt} {o : Osc} : o.ok f = true ↔ o.Ok f := by
  simp only [Osc.ok, Bool.and_eq_true]
  exact ⟨fun ⟨⟨⟨hp, hn⟩, hf⟩, hd⟩ => ⟨hp, hn, hf, hd⟩, fun ⟨hp, hn, hf, hd⟩ => ⟨⟨⟨hp, hn⟩, hf⟩, hd⟩⟩

/-- What OSCNEXT leaves in the registers (R203). -/
theorem Osc.next_ok {c : Config} {o o' : Osc} {draw x : FReal} {w : Bool} (h : o.next c draw = .ok (x, o', w)) :
    ∃ inc, isFinite c.fmt inc = true ∧
      o' = { o with
        inc := inc, phase := wrapPhase c.fmt (fadd c.fmt o.phase inc), noise := if w then draw else o.noise } := by
  unfold Osc.next at h
  split at h
  · dsimp only at h
    split at h <;> cases h
    next hfin =>
    rw [Bool.and_eq_true] at hfin
    exact ⟨_, hfin.2, rfl⟩
  · cases h

theorem OscEffect.ok {c : Config} {draw : FReal} {o o' : Osc} (he : OscEffect c draw o o')
    (hdraw : inUnit c.fmt draw = true) (h : o.Ok c.fmt) : o'.Ok c.fmt := by
  cases he with
  | keep => exact h
  | rst => exact ⟨inPhaseRange_fzero _, h.noise, h.freq, h.detune⟩
  | freq r hr => exact ⟨h.phase, h.noise, Param.holds_written hr, h.detune⟩
  | detune r hr => exact ⟨h.phase, h.noise, h.freq, Param.holds_written hr⟩
  | wave => exact ⟨h.phase, h.noise, h.freq, h.detune⟩
  | next made =>
    obtain ⟨inc, hinc, rfl⟩ := Osc.next_ok made
    obtain ⟨v, hv⟩ := exists_hasValue_phase_add h.phase hinc
    exact ⟨hv.inPhaseRange_wrapPhase, by dsimp only; split <;> [exact hdraw; exact h.noise], h.freq, h.detune⟩

theorem Osc.ok_reset {f : Fmt} {noise : FReal} (h : inUnit f noise = true) : (Osc.reset noise).Ok f :=
  ⟨inPhaseRange_fzero f, h, rfl, rfl⟩

/-! ### Values that are not below 0 -/

/-- A value not below 0, or +infinity: what an envelope's step is (R221). -/
def NonNeg (f : Fmt) (x : FReal) : Prop := unpack f x = .inf false ∨ ∃ v, HasValue f x v ∧ 0 ≤ v

theorem nonNeg_fround (f : Fmt) (num den : Nat) : NonNeg f (fround f false num den) := by
  rcases unpack_fround_cases f false num den with ⟨-, h⟩ | ⟨-, h⟩
  · exact .inl h
  · exact .inr ⟨_, ⟨_, _, h, rfl⟩, by simp [signed]⟩

theorem NonNeg.hasValue {f : Fmt} {x : FReal} (h : NonNeg f x) (hfin : isFinite f x = true) :
    ∃ v, HasValue f x v ∧ 0 ≤ v := by
  rcases h with hinf | hv
  · obtain ⟨a, n, hn⟩ := isFinite_iff.mp hfin
    rw [hinf] at hn
    cases hn
  · exact hv

theorem nonNeg_withSign_zero (f : Fmt) (neg : Bool) : NonNeg f (withSign f neg 0) :=
  .inr ⟨0, hasValue_withSign_zero f neg, le_rfl⟩

section Signs

variable {f : Fmt} {x y : FReal} {v w : Int}

/-- A sum of an exact result not below 0. -/
theorem nonNeg_roundInt (zeroNeg : Bool) {n : Int} (hn : 0 ≤ n) (den : Nat) : NonNeg f (roundInt f zeroNeg n den) := by
  unfold roundInt
  split
  · exact nonNeg_withSign_zero f zeroNeg
  · rw [decide_eq_false hn.not_gt]
    exact nonNeg_fround f _ _

/-- The quotient by a value above 0. -/
theorem HasValue.nonNeg_fdiv (hx : HasValue f x v) (hy : HasValue f y w) (hv : 0 ≤ v) (hw : 0 < w) :
    NonNeg f (fdiv f x y) := by
  obtain ⟨a, m, hm, rfl⟩ := hx
  obtain ⟨b, n, hn, rfl⟩ := hy
  have hn0 : n ≠ 0 := by rintro rfl; cases b <;> simp [signed] at hw
  have hb : b = false := by
    cases b
    · rfl
    · simp only [signed, if_true] at hw; omega
  unfold fdiv
  rw [hm, hn]
  dsimp only
  rw [if_neg hn0]
  split
  · exact nonNeg_withSign_zero f _
  · next hm0 =>
    have ha : a = false := by
      cases a
      · rfl
      · simp only [signed, if_true] at hv; omega
    rw [ha, hb]
    exact nonNeg_fround f _ _

theorem HasValue.nonNeg_fadd (hx : HasValue f x v) (hv : 0 ≤ v) (hy : NonNeg f y) : NonNeg f (fadd f x y) := by
  obtain ⟨a, m, hm, rfl⟩ := hx
  rcases hy with hinf | ⟨w, ⟨b, n, hn, rfl⟩, hw⟩
  · left
    unfold fadd
    rw [hm, hinf]
    exact unpack_infPattern f false
  · unfold fadd
    rw [hm, hn]
    exact nonNeg_roundInt _ (by omega) 1

/-- A difference does not pass the minuend, and is -infinity where the subtrahend is +infinity. -/
theorem HasValue.fsub_nonNeg (hx : HasValue f x v) (hv : 0 ≤ v) (hy : NonNeg f y) :
    unpack f (fsub f x y) = .inf true ∨ ∃ u, HasValue f (fsub f x y) u ∧ u ≤ v := by
  rcases hy with hinf | ⟨w, hy, hw⟩
  · left
    obtain ⟨a, m, hm, -⟩ := hx
    have hneg : unpack f (fneg f y) = .inf true := by
      unfold fneg
      rw [hinf]
      exact unpack_infPattern f true
    unfold fsub fadd
    rw [hm, hneg]
    exact unpack_infPattern f true
  · right
    obtain ⟨u, hu, -, hle⟩ := between_fsub hy.neg hx hx hy (by omega) (by omega)
    exact ⟨u, hu, hle⟩

end Signs

/-! ### The step of an envelope (R220) -/

/-- `SR` in the format is at least 1, or an infinity. -/
theorem sampleRate_cases {c : Config} (hs : c.sr ≠ 0) :
    unpack c.fmt (sampleRate c) = .inf false ∨ ∃ v, HasValue c.fmt (sampleRate c) v ∧ oneUnits c.fmt ≤ v := by
  have hpos : 0 < c.sr * 2 ^ scale c.fmt := by positivity
  have hsr : sampleRate c = fround c.fmt false (c.sr * 2 ^ scale c.fmt) 1 := by
    have hcast : ((c.sr : Int) * 2 ^ scale c.fmt) = ((c.sr * 2 ^ scale c.fmt : Nat) : Int) := by push_cast; rfl
    unfold sampleRate ofInt ofRatio roundInt
    rw [hcast, if_neg (by omega), decide_eq_false (by omega), Int.natAbs_natCast]
  rw [hsr]
  rcases unpack_fround_cases c.fmt false (c.sr * 2 ^ scale c.fmt) 1 with ⟨-, h⟩ | ⟨-, h⟩
  · exact .inl h
  · refine .inr ⟨_, ⟨_, _, h, rfl⟩, (hasValue_fone c.fmt).roundMag_above Nat.one_pos ?_⟩
    have hle : 1 * 2 ^ scale c.fmt ≤ c.sr * 2 ^ scale c.fmt := Nat.mul_le_mul_right _ (Nat.pos_of_ne_zero hs)
    rw [Nat.one_mul] at hle
    rw [Nat.cast_one, mul_one, oneUnits]
    exact_mod_cast hle

theorem fdiv_inf {f : Fmt} {x y : FReal} {v : Int} (hx : HasValue f x v) (hy : unpack f y = .inf false) :
    HasValue f (fdiv f x y) 0 := by
  obtain ⟨a, m, hm, -⟩ := hx
  unfold fdiv
  rw [hm, hy]
  exact hasValue_withSign_zero f _

/-- An envelope's step is a finite value not below 0. -/
theorem exists_hasValue_envStep {c : Config} (hs : c.sr ≠ 0) : ∃ v, HasValue c.fmt (envStep c) v ∧ 0 ≤ v := by
  have hone := hasValue_fone c.fmt
  have hpos := oneUnits_pos c.fmt
  rcases sampleRate_cases hs with hinf | ⟨w, hw, hle⟩
  · exact ⟨0, fdiv_inf hone hinf, le_rfl⟩
  · have hround := hone.isRounded_fdiv hw (by omega)
    have hfin := (hround.1 ?_).1
    · exact (hone.nonNeg_fdiv hw hpos.le (by omega)).hasValue hfin
    · have hover := max_add_one_lt_overflow c.fmt
      have hmax : 0 ≤ maxUnits c.fmt := Int.natCast_nonneg _
      have hsquare : 0 ≤ oneUnits c.fmt * 2 ^ scale c.fmt := by positivity
      rw [abs_of_nonneg hsquare, abs_of_nonneg (by omega)]
      calc 2 * (oneUnits c.fmt * 2 ^ scale c.fmt) = 2 * oneUnits c.fmt * oneUnits c.fmt := by rw [oneUnits]; ring
        _ < twiceOverflow c.fmt * oneUnits c.fmt := mul_lt_mul_of_pos_right (by omega) hpos
        _ ≤ twiceOverflow c.fmt * w := mul_le_mul_of_nonneg_left hle (by omega)

/-! ### Envelopes (R42, R43) -/

/-- One stage action (R221), each case with the comparison that chose it. -/
inductive EnvNext (c : Config) (e : Env) : Env → Prop where
  | idle (stage : e.stage = .idle) : EnvNext c e { e with value := fzero }
  | peak (stage : e.stage = .attack) : EnvNext c e { e with value := fone c.fmt, stage := .decay }
  | rise (stage : e.stage = .attack) (written : e.attack.written = true)
      (positive : fle c.fmt e.attack.value fzero = false)
      (below : fle c.fmt (fone c.fmt) (fadd c.fmt e.value (fdiv c.fmt (envStep c) e.attack.value)) = false) :
      EnvNext c e { e with value := fadd c.fmt e.value (fdiv c.fmt (envStep c) e.attack.value) }
  | level (stage : e.stage = .decay) (written : e.sustain.written = true) :
      EnvNext c e { e with value := e.sustain.value, stage := .sustain }
  | fall (stage : e.stage = .decay) (writtenDecay : e.decay.written = true)
      (writtenSustain : e.sustain.written = true) (positive : fle c.fmt e.decay.value fzero = false)
      (above : fle c.fmt (fsub c.fmt e.value (fdiv c.fmt (envStep c) e.decay.value)) e.sustain.value = false) :
      EnvNext c e { e with value := fsub c.fmt e.value (fdiv c.fmt (envStep c) e.decay.value) }
  | hold (stage : e.stage = .sustain) (written : e.sustain.written = true) :
      EnvNext c e { e with value := e.sustain.value }
  | silent (stage : e.stage = .release) : EnvNext c e { e with value := fzero, stage := .idle }
  | drop (stage : e.stage = .release) (written : e.release.written = true)
      (positive : fle c.fmt e.release.value fzero = false)
      (above : fle c.fmt (fsub c.fmt e.value (fdiv c.fmt (fmul c.fmt e.relstart (envStep c)) e.release.value))
        fzero = false) :
      EnvNext c e
        { e with value := fsub c.fmt e.value (fdiv c.fmt (fmul c.fmt e.relstart (envStep c)) e.release.value) }

theorem Env.next_cases {c : Config} {e e' : Env} (h : e.next c = .ok e') : EnvNext c e e' := by
  unfold Env.next at h
  dsimp only at h
  split at h
  case h_1 hst => cases h; exact .idle hst
  case h_2 hst =>
    split at h
    · cases h
    next a ha =>
    obtain ⟨hw, rfl⟩ := Param.rd_ok ha
    split at h <;> cases h
    · exact .peak hst
    · next hn =>
      rw [Bool.or_eq_true, not_or, Bool.not_eq_true, Bool.not_eq_true] at hn
      exact .rise hst hw hn.1 hn.2
  case h_3 hst =>
    split at h
    · cases h
    next dt hdt =>
    obtain ⟨hwd, rfl⟩ := Param.rd_ok hdt
    split at h
    · cases h
    next sl hsl =>
    obtain ⟨hws, rfl⟩ := Param.rd_ok hsl
    split at h <;> cases h
    · exact .level hst hws
    · next hn =>
      rw [Bool.or_eq_true, not_or, Bool.not_eq_true, Bool.not_eq_true] at hn
      exact .fall hst hwd hws hn.1 hn.2
  case h_4 hst =>
    split at h <;> cases h
    next sl hsl =>
    obtain ⟨hw, rfl⟩ := Param.rd_ok hsl
    exact .hold hst hw
  case h_5 hst =>
    split at h
    · cases h
    next r hr =>
    obtain ⟨hw, rfl⟩ := Param.rd_ok hr
    split at h <;> cases h
    · exact .silent hst
    · next hn =>
      rw [Bool.or_eq_true, not_or, Bool.not_eq_true, Bool.not_eq_true] at hn
      exact .drop hst hw hn.1 hn.2

theorem inZeroOne_iff {f : Fmt} {r : FReal} : inZeroOne f r = true ↔ Between f 0 (oneUnits f) r := by
  rw [between_iff_fle (hasValue_fzero f) (hasValue_fone f), inZeroOne, Bool.and_eq_true]

theorem inZeroOne_fzero (f : Fmt) : inZeroOne f fzero = true :=
  inZeroOne_iff.mpr ⟨0, hasValue_fzero f, le_rfl, (oneUnits_pos f).le⟩

theorem inZeroOne_fone (f : Fmt) : inZeroOne f (fone f) = true :=
  inZeroOne_iff.mpr ⟨_, hasValue_fone f, (oneUnits_pos f).le, le_rfl⟩

/-- What `Env.ok` says, as named facts. -/
structure Env.Ok (f : Fmt) (e : Env) : Prop where
  value : inZeroOne f e.value = true
  relstart : inZeroOne f e.relstart = true
  sustain : e.sustain.holds (inZeroOne f) = true
  attack : e.attack.holds (isFinite f) = true
  decay : e.decay.holds (isFinite f) = true
  release : e.release.holds (isFinite f) = true

theorem Env.ok_iff {f : Fmt} {e : Env} : e.ok f = true ↔ e.Ok f := by
  simp only [Env.ok, Bool.and_eq_true]
  exact ⟨fun ⟨⟨⟨⟨⟨hv, hr⟩, hs⟩, ha⟩, hd⟩, hrel⟩ => ⟨hv, hr, hs, ha, hd, hrel⟩,
    fun ⟨hv, hr, hs, ha, hd, hrel⟩ => ⟨⟨⟨⟨⟨hv, hr⟩, hs⟩, ha⟩, hd⟩, hrel⟩⟩

/-- A written parameter has its property. -/
theorem Param.holds_value {α : Type} {p : Param α} {ok : α → Bool} (h : p.holds ok = true)
    (hw : p.written = true) : ok p.value = true := by simpa [Param.holds, hw] using h

/-- Only the value has changed, and it is in range. -/
theorem Env.Ok.withValue {f : Fmt} {e : Env} {x : FReal} (h : e.Ok f) (hx : inZeroOne f x = true) (st : Stage) :
    ({ e with value := x, stage := st } : Env).Ok f := ⟨hx, h.relstart, h.sustain, h.attack, h.decay, h.release⟩

section Stages

variable {f : Fmt} {x d t : FReal}

/-- A finite time that is not at or below 0 is above it. -/
theorem exists_hasValue_pos (hfin : isFinite f t = true) (hpos : fle f t fzero = false) :
    ∃ v, HasValue f t v ∧ 0 < v := by
  have hv := hasValue_of_isFinite hfin
  have hle := hv.fle_iff (hasValue_fzero f)
  rw [hpos] at hle
  exact ⟨_, hv, by simpa using hle⟩

/-- The attack's sum, where it has not reached 1. -/
theorem inZeroOne_rise (hx : inZeroOne f x = true) (hd : NonNeg f d)
    (hbelow : fle f (fone f) (fadd f x d) = false) : inZeroOne f (fadd f x d) = true := by
  obtain ⟨v, hv, h0, -⟩ := inZeroOne_iff.mp hx
  rcases hv.nonNeg_fadd h0 hd with hinf | ⟨u, hu, hge⟩
  · obtain ⟨a, n, hn, -⟩ := hasValue_fone f
    simp [fle, hn, hinf] at hbelow
  · have hle := (hasValue_fone f).fle_iff hu
    rw [hbelow] at hle
    exact inZeroOne_iff.mpr ⟨u, hu, hge, by simpa using le_of_lt (by simpa using hle)⟩

/-- The difference of the decay and of the release, where it is above a floor that is not below 0. -/
theorem inZeroOne_fall {l : FReal} (hx : inZeroOne f x = true) (hd : NonNeg f d) (hl : inZeroOne f l = true)
    (habove : fle f (fsub f x d) l = false) : inZeroOne f (fsub f x d) = true := by
  obtain ⟨v, hv, h0, h1⟩ := inZeroOne_iff.mp hx
  obtain ⟨w, hw, hw0, -⟩ := inZeroOne_iff.mp hl
  rcases hv.fsub_nonNeg h0 hd with hinf | ⟨u, hu, hle⟩
  · obtain ⟨a, n, hn, -⟩ := hw
    simp [fle, hn, hinf] at habove
  · have hlt := hu.fle_iff hw
    rw [habove] at hlt
    have hlt : w < u := by simpa using hlt
    exact inZeroOne_iff.mpr ⟨u, hu, by omega, by omega⟩

/-- A share of a finite step is a finite value not below 0. -/
theorem exists_hasValue_share {v : Int} (hx : inZeroOne f x = true) (hd : HasValue f d v) (hv : 0 ≤ v) :
    ∃ u, HasValue f (fmul f x d) u ∧ 0 ≤ u := by
  obtain ⟨w, hw, h0, h1⟩ := inZeroOne_iff.mp hx
  obtain ⟨u, hu, hge, -⟩ := between_fmul (hasValue_fzero f) hd hw hd
    (by rw [zero_mul]; exact mul_nonneg h0 hv) (by rw [mul_comm v]; exact mul_le_mul_of_nonneg_right h1 hv)
  exact ⟨u, hu, hge⟩

end Stages

theorem EnvNext.ok {c : Config} {e e' : Env} (he : EnvNext c e e') (hs : c.sr ≠ 0) (h : e.Ok c.fmt) :
    e'.Ok c.fmt := by
  obtain ⟨step, hstep, hstep0⟩ := exists_hasValue_envStep hs
  cases he with
  | idle => exact h.withValue (inZeroOne_fzero _) _
  | peak => exact h.withValue (inZeroOne_fone _) _
  | rise _ hw hpos hbelow =>
    obtain ⟨a, ha, ha0⟩ := exists_hasValue_pos (Param.holds_value h.attack hw) hpos
    exact h.withValue (inZeroOne_rise h.value (hstep.nonNeg_fdiv ha hstep0 ha0) hbelow) _
  | level _ hw => exact h.withValue (Param.holds_value h.sustain hw) _
  | fall _ hwd hws hpos habove =>
    obtain ⟨t, ht, ht0⟩ := exists_hasValue_pos (Param.holds_value h.decay hwd) hpos
    exact h.withValue (inZeroOne_fall h.value (hstep.nonNeg_fdiv ht hstep0 ht0)
      (Param.holds_value h.sustain hws) habove) _
  | hold _ hw => exact h.withValue (Param.holds_value h.sustain hw) _
  | silent => exact h.withValue (inZeroOne_fzero _) _
  | drop _ hw hpos habove =>
    obtain ⟨t, ht, ht0⟩ := exists_hasValue_pos (Param.holds_value h.release hw) hpos
    obtain ⟨u, hu, hu0⟩ := exists_hasValue_share h.relstart hstep hstep0
    exact h.withValue (inZeroOne_fall h.value (hu.nonNeg_fdiv ht hu0 ht0) (inZeroOne_fzero _) habove) _

theorem EnvEffect.ok {c : Config} {i : Instr} {e e' : Env} (he : EnvEffect c e i e') (hs : c.sr ≠ 0)
    (h : e.Ok c.fmt) : e'.Ok c.fmt := by
  cases he with
  | keep => exact h
  | next _ _ made => exact (Env.next_cases made).ok hs h
  | on => exact h.withValue h.value _
  | off => exact ⟨h.value, h.value, h.sustain, h.attack, h.decay, h.release⟩
  | rst => exact h.withValue (inZeroOne_fzero _) _
  | attack _ r hr => exact ⟨h.value, h.relstart, h.sustain, Param.holds_written hr, h.decay, h.release⟩
  | decay _ r hr => exact ⟨h.value, h.relstart, h.sustain, h.attack, Param.holds_written hr, h.release⟩
  | sustain _ r hr => exact ⟨h.value, h.relstart, Param.holds_written hr, h.attack, h.decay, h.release⟩
  | release _ r hr => exact ⟨h.value, h.relstart, h.sustain, h.attack, h.decay, Param.holds_written hr⟩

theorem Env.ok_reset (f : Fmt) : Env.reset.Ok f :=
  ⟨inZeroOne_fzero f, inZeroOne_fzero f, rfl, rfl, rfl, rfl⟩

/-! ### The stage graph (R229) -/

/-- A stage action that changes the stage goes along one of the three edges it has. -/
theorem EnvNext.edge {c : Config} {e e' : Env} (he : EnvNext c e e') (hne : e'.stage ≠ e.stage) :
    (e.stage = .attack ∧ e'.stage = .decay ∧ e'.value = fone c.fmt) ∨
    (e.stage = .decay ∧ e'.stage = .sustain ∧ e'.value = e.sustain.value) ∨
    (e.stage = .release ∧ e'.stage = .idle ∧ e'.value = fzero) := by
  cases he with
  | peak hst => exact .inl ⟨hst, rfl, rfl⟩
  | level hst => exact .inr (.inl ⟨hst, rfl, rfl⟩)
  | silent hst => exact .inr (.inr ⟨hst, rfl, rfl⟩)
  | idle | rise | fall | hold | drop => exact absurd rfl hne

/-- The edges of the stage graph from `e` to `e'`, each under the command that makes it (R229). -/
def StageEdge (c : Config) (i : Instr) (v : Byte) (e e' : Env) : Prop :=
  (i = .envon v ∧ e'.stage = .attack ∧ e'.value = e.value) ∨
  (i = .envoff v ∧ e.stage ≠ .idle ∧ e'.stage = .release) ∨
  (i = .envrst v ∧ e'.stage = .idle) ∨
  ((i = .envnext v ∨ i = .voice v) ∧
    ((e.stage = .attack ∧ e'.stage = .decay ∧ e'.value = fone c.fmt) ∨
     (e.stage = .decay ∧ e'.stage = .sustain ∧ e'.value = e.sustain.value) ∨
     (e.stage = .release ∧ e'.stage = .idle ∧ e'.value = fzero)))

theorem EnvEffect.edge {c : Config} {i : Instr} {e e' : Env} {v : Byte} (he : EnvEffect c e i e')
    (hu : unitOf i = some v) (hne : e'.stage ≠ e.stage) : StageEdge c i v e e' := by
  cases he with
  | on => cases hu; exact .inl ⟨rfl, rfl, rfl⟩
  | off _ hst => cases hu; exact .inr (.inl ⟨rfl, hst, rfl⟩)
  | rst => cases hu; exact .inr (.inr (.inl ⟨rfl, rfl⟩))
  | next u hi made =>
    rcases hi with rfl | rfl <;> cases hu
    · exact .inr (.inr (.inr ⟨.inl rfl, (Env.next_cases made).edge hne⟩))
    · exact .inr (.inr (.inr ⟨.inr rfl, (Env.next_cases made).edge hne⟩))
  | keep | attack | decay | sustain | release => exact absurd rfl hne

/-- An instruction that changes a voice is a command of that voice. -/
theorem exec_voice_changed {i : Instr} {s t : State} {u : Nat} {a b : Voice} (h : exec i s = .next t)
    (ha : s.audio.voices[u]? = some a) (hb : t.audio.voices[u]? = some b) (hne : b ≠ a) :
    ∃ v : Byte, v.toNat = u ∧ unitOf i = some v ∧
      VoiceEffect s.cfg i (drawNoise s.cfg.fmt s.audio.draws) a b := by
  have hkept : t.audio.voices ≠ s.audio.voices := by
    intro hv
    rw [hv, ha] at hb
    exact hne (Option.some.inj hb).symm
  cases hp : i.port with
  | vcmd | seq =>
    obtain ⟨v, rfl⟩ := exec_video_frame (by simp [hp]) h
    exact absurd rfl hkept
  | sig =>
    cases i with
    | pull n => exact absurd (execPull_effect h).2.voices hkept
    | _ => cases hp
  | acmd =>
    rcases (exec_audioEffect hp h).voices_cases with hv | ⟨v, vc, vc', hu, hvc, he, hv⟩
    · exact absurd hv hkept
    · rw [hv] at hb
      rcases eq_or_ne v.toNat u with rfl | hvu
      · obtain rfl : vc = a := Option.some.inj (hvc.symm.trans ha)
        rw [List.getElem?_set_self (List.getElem?_eq_some_iff.mp ha).1] at hb
        obtain rfl := Option.some.inj hb
        exact ⟨v, rfl, hu, he⟩
      · rw [List.getElem?_set_ne hvu, ha] at hb
        exact absurd (Option.some.inj hb).symm hne

end Sys2Proof.Machine

namespace Sys2Proof.Proofs

open Sys2Proof Sys2Proof.Machine

/-- Settles O17: the phase is wrapped, the noise is a draw, and the set commands store finite values only. -/
theorem stepKeepsOscillators : Obligations.StepKeepsOscillators := by
  intro s t h hs
  simp only [State.oscillatorsOk, List.all_eq_true, step_cfg h, Osc.ok_iff] at hs ⊢
  exact step_keeps_voices (P := fun vc => vc.osc.Ok s.cfg.fmt) h
    (fun k => Osc.ok_reset (inUnit_drawNoise _ _)) (fun _ _ _ _ _ hd he => he.osc.ok hd) hs

/-- Settles O18: a stage action's value is a bound of its comparison or stands between the bounds. -/
theorem stepKeepsEnvelopes : Obligations.StepKeepsEnvelopes := by
  intro s t h hs
  simp only [State.envelopesOk, List.all_eq_true, step_cfg h, Env.ok_iff] at hs ⊢
  exact step_keeps_voices (P := fun vc => vc.env.Ok s.cfg.fmt) h
    (fun _ => Env.ok_reset _) (fun _ _ _ _ hsr _ he => he.env.ok hsr) hs

/-- Settles O19: what enters the delay line has been checked to be finite, and so has every parameter. -/
theorem stepKeepsFilters : Obligations.StepKeepsFilters := by
  intro s t h hs
  simp only [State.filtersOk, List.all_eq_true, step_cfg h, Filter.ok_iff] at hs ⊢
  exact step_keeps_voices (P := fun vc => vc.flt.Finite s.cfg.fmt) h
    (fun _ => Filter.finite_reset _) (fun _ _ _ _ _ _ he => he.flt.finite) hs

/-- Settles O28: a voice whose stage has changed has had one of its commands' effects, and each effect that changes
the stage is an edge. -/
theorem stageGraph : Obligations.StageGraph := by
  intro s t i u a b h ha hb hne
  obtain ⟨v, hv, hu, he⟩ := exec_voice_changed h ha hb (fun hab => hne (by rw [hab]))
  exact ⟨v, hv, he.env.edge hu hne⟩

end Sys2Proof.Proofs
end

section
/-! PROOFS of the statements on the faults, the access rights, the inputs and the reset (`spec/60_exceptions.md`,
`spec/70_reset_and_hazards.md`, `spec/42_raster_sequencer.md`, `spec/00_scope.md`). What a move comes to is said once
per move; what a step leaves of a halted domain or of a block in reset is read off the causes of its changes. -/

namespace Sys2Proof.Machine

/-! ### What a step is, by its move -/

theorem step_move_run {s s' : State} {m : Move} {i : Instr} (hm : s.nextMove.1 = m)
    (h : s.nextMove.2.move m = .run i s') : step s = exec i s' :=
  step_run (by rw [State.fetch, hm, h])

theorem step_move_refuse {s : State} {m : Move} {why : Refusal} (hm : s.nextMove.1 = m)
    (h : s.nextMove.2.move m = .refuse why) : step s = .refused why := by
  simp [step, State.fetch, hm, h]

section Turns

variable {s : State} {i : Instr} {rest : List Word}

theorem State.videoTurn_ownStep (hr : s.inReset = false) (hf : s.video.fault.valid = false)
    (ho : s.video.phase.ownStep = some i) : s.videoTurn = .run i s := by
  simp [videoTurn, hr, hf, ho]

theorem State.videoTurn_packet (hr : s.inReset = false) (hp : s.canPaint)
    (hd : decodeVideo s.cfg.fmt s.video.vcmd = .packet i rest) :
    s.videoTurn = .run i { s with video := { s.video with vcmd := rest } } := by
  simp [videoTurn, hr, hp.1, Phase.ownStep_eq_none hp.2, hd]

theorem State.videoTurn_wait (hr : s.inReset = false) (hf : s.video.fault.valid = false)
    (hw : s.video.phase.wait = some i) (hd : decodeVideo s.cfg.fmt s.video.vcmd = .short) :
    s.videoTurn = .run i s := by
  have ho : s.video.phase.ownStep = none := by
    cases hp : s.video.phase with
    | framedraw | scanline => rfl
    | _ => rw [hp] at hw; cases hw
  simp [videoTurn, hr, hf, ho, hd, hw]

theorem State.videoTurn_stopped (hr : s.inReset = false) (h : s.isStopped)
    (hd : decodeVideo s.cfg.fmt s.video.vcmd = .short) : s.videoTurn = .stay s := by
  simp [videoTurn, hr, h.1, h.2, Phase.ownStep, Phase.wait, hd]

theorem State.videoTurn_inReset (hr : s.inReset = true) : s.videoTurn = .stay s := by simp [videoTurn, hr]

theorem State.audioTurn_packet (hr : s.inReset = false) (ha : s.audioRuns)
    (hd : decodeAudio s.cfg.fmt s.audio.acmd = .packet i rest) :
    s.audioTurn = .run i { s with audio := { s.audio with acmd := rest } } := by
  simp [audioTurn, hr, ha.1, ha.2, hd]

theorem State.audioTurn_short (hr : s.inReset = false) (ha : s.audioRuns)
    (hd : decodeAudio s.cfg.fmt s.audio.acmd = .short) : s.audioTurn = .stay s := by
  simp [audioTurn, hr, ha.1, ha.2, hd]

theorem State.audioTurn_inReset (hr : s.inReset = true) : s.audioTurn = .stay s := by simp [audioTurn, hr]

end Turns

/-- Only the input `reset` changes its level (R330). -/
theorem State.move_stay_inReset {s t : State} {m : Move} (h : s.move m = .stay t) :
    t.inReset = s.inReset ∨ m = .reset t.inReset := by
  cases m with
  | video | vcmd | quitReq | presentReady | tick | takeVrsp =>
    obtain ⟨v, rfl⟩ := State.move_stay_ofVideo rfl h
    exact .inl rfl
  | audio | acmd | pull | takeArsp =>
    obtain ⟨a, rfl⟩ := State.move_stay_ofAudio rfl h
    exact .inl rfl
  | reset level =>
    cases h
    cases level with
    | true => exact .inr rfl
    | false =>
      unfold setReset
      cases hr : s.inReset
      · exact .inl (by simp [hr])
      · exact .inr (by simp [resetAction])

theorem step_inReset {s t : State} (h : step s = .next t) :
    t.inReset = s.inReset ∨ s.nextMove.1 = .reset t.inReset := by
  rcases step_cases h with hf | ⟨i, s', hf, he⟩
  · simpa using State.move_stay_inReset hf
  · obtain ⟨v, a, rfl⟩ := State.move_run_frame hf
    obtain ⟨v', a', rfl⟩ := exec_frame he
    exact .inl (by simp)

theorem VideoMove.quit {s t : State} (hm : VideoMove s t) (hr : s.releasesReset = false)
    (hq : s.video.quit = true) : t.video.quit = true := by
  cases hm with
  | inputs _ _ quit => exact quit hq
  | effect i ws _ _ made =>
    obtain ⟨-, hquit, -, -⟩ := made.inputs
    exact hquit.trans hq
  | illegal ws _ _ made => rw [made]; exact hq
  | release hrel => simp [hr] at hrel

theorem VideoMove.now {s t : State} (hm : VideoMove s t) : s.video.now.toNat ≤ t.video.now.toNat := by
  cases hm with
  | inputs _ now => exact now
  | effect i ws _ _ made =>
    obtain ⟨hnow, -, -, -⟩ := made.inputs
    rw [hnow]
  | illegal ws _ _ made => rw [made]
  | release _ made => rw [made]; rfl

/-! ### Faults of the video domain (R291) -/

/-- The latch that a raise sets was clear, so a packet that raised one changed nothing else. -/
theorem exec_vcmd_faulted {s t : State} {i : Instr} (hp : i.port = .vcmd) (hf : s.video.fault.valid = false)
    (h : exec i s = .next t) (ht : t.video.fault.valid = true) : ∃ k, t = s.videoFault k := by
  rcases (exec_videoEffect (.inl hp) h).fault_cases with hsame | ⟨-, k, hk, -⟩
  · rw [hsame, hf] at ht
    cases ht
  · obtain ⟨v, rfl⟩ := exec_video_frame (.inl hp) h
    obtain rfl : v = s.video.raise k := hk
    exact ⟨k, State.videoFault_eq hf k⟩

theorem seqStep_fault {p : Phase} {en : VideoState → Bool} {s t : State} {body : VideoState → VideoState}
    (hb : (body s.video).fault = s.video.fault) (h : seqStep p en s body = .next t) :
    t.video.fault = s.video.fault := by
  rcases seqStep_cases h with rfl | ⟨-, -, -, rfl⟩
  · rfl
  · exact hb

theorem exec_seq_fault {s t : State} {i : Instr} (hp : i.port = .seq) (h : exec i s = .next t) :
    t.video.fault = s.video.fault := by
  unfold exec at h
  cases i with
  | seqFramedraw | seqScanline | seqFlip | seqCommit | seqPresent => exact seqStep_fault rfl h
  | seqPace => exact seqStep_fault (by simp) h
  | _ => cases hp

/-! ### Faults of the audio domain (R270, R292) -/

theorem exec_acmd_faulted {s t : State} {i : Instr} (hp : i.port = .acmd) (hs : s.audioRuns)
    (h : exec i s = .next t) (ht : t.audio.fault.valid = true) : ∃ k, t = s.audioFault k := by
  have he := exec_audioEffect hp h
  obtain ⟨a, rfl⟩ := exec_audio_frame (.inl hp) h
  dsimp only at he ht
  cases he with
  | fault k => exact ⟨k, State.audioFault_eq hs.2 k⟩
  | _ => simp [hs.2] at ht

theorem exec_pull_faulted {s : State} {n : BitVec 16} (hs : s.cfg.sr ≠ 0) (hf : s.audio.fault.valid = true)
    (hn : n.toNat ≤ s.cfg.abufSize) : exec (.pull n) s = .next { s with audio := s.audio.silentPull n } := by
  unfold exec
  simp [execPull, hs, hf, hn]

/-- After a fault a PULL leaves everything but the record of events. -/
theorem PullEffect.faulted {c : Config} {n : BitVec 16} {a a' : AudioState} (h : PullEffect c n a a')
    (hf : a.fault.valid = true) : a' = a.silentPull n := by
  cases h with
  | silent => rfl
  | enterFill hn | buffered hn => simp [hf] at hn

/-! ### Access rights (R176) -/

theorem exec_held {s : State} {i : Instr} {c : VClass} (hc : vclassOf i = some c)
    (hf : s.video.fault.valid = false) (hr : s.video.phase.right c = .held) : exec i s = .next s := by
  unfold exec
  cases i with
  | putpixel | clear | hline | vline | fillrect | blit | flip | palwr | palrd | setgrad | rotpal | commit
  | pullf2b | run | hookret =>
    cases hc
    exact (if_neg (by simp [hf])).trans (by rw [hr])
  | _ => cases hc

theorem vclassOf_port {i : Instr} {c : VClass} (hc : vclassOf i = some c) : i.port = .vcmd := by
  cases i with
  | putpixel | clear | hline | vline | fillrect | blit | flip | palwr | palrd | setgrad | rotpal | commit
  | pullf2b | run | hookret => rfl
  | _ => cases hc

/-- A packet that the phase accepts faults by its operands only. -/
theorem exec_accepted {s : State} {i : Instr} {c : VClass} (hc : vclassOf i = some c)
    (hf : s.video.fault.valid = false) (hr : s.video.phase.right c = .accepted) :
    ∃ t, exec i s = .next t ∧
      (t.video.fault = s.video.fault ∨ t = s.videoFault .badparam ∨ t = s.videoFault .ubRange) := by
  obtain ⟨t, h⟩ := exec_vcmd_next hc s
  have hp := vclassOf_port hc
  refine ⟨t, h, ?_⟩
  rcases (exec_videoEffect (.inl hp) h).fault_cases with hsame | ⟨-, k, hk, hcause⟩
  · exact .inl hsame
  · obtain ⟨v, rfl⟩ := exec_video_frame (.inl hp) h
    obtain rfl : v = s.video.raise k := hk
    rw [State.videoFault_eq hf]
    rcases hcause with ⟨cl, hcl, hrefused⟩ | rfl | rfl
    · cases hc.symm.trans hcl
      rw [hr] at hrefused
      cases hrefused
    · exact .inr (.inl rfl)
    · exact .inr (.inr rfl)

/-! ### No audio domain, and reset -/

/-- With `SR = 0` there is no ACMD port (R12). -/
theorem exec_acmd_absent {i : Instr} {s : State} (hs : s.cfg.sr = 0) (hp : i.port = .acmd) :
    exec i s = .refused .audioAbsent := by
  unfold exec
  cases i with
  | oscnext | oscrst | oscnote | oscfreq | oscdet | oscwave | envnext | envon | envoff | envrst | envatk | envdec
  | envsus | envrel | fltproc | fltrst | flttype | fltcut | fltres | voice | spanwr | fillret | abufwr
  | abufrdy => exact if_pos hs
  | _ => cases hp

theorem exec_pull_absent {n : BitVec 16} {s : State} (hs : s.cfg.sr = 0) :
    exec (.pull n) s = .refused .audioAbsent := by
  unfold exec
  exact if_pos hs

theorem State.adapterOk_resetIn (c : Config) : (State.resetIn c).adapterOk = true := by
  by_cases hs : c.sr = 0
  · rw [adapterOk_absent_iff hs]
    exact AudioState.resetWith_absent hs 0 []
  · rw [adapterOk_iff hs]
    change (AudioState.resetWith c 0 []).AdapterOk c
    rw [AudioState.resetWith_present hs]
    exact AudioState.adapterOk_present c 0 []

/-- A property of every voice at reset holds of the voices of the machine at reset. -/
theorem voices_resetIn {c : Config} {P : Voice → Bool} (h : ∀ k, P (Voice.reset c.fmt k) = true) :
    (State.resetIn c).audio.voices.all P = true := by
  rw [List.all_eq_true]
  intro vc hvc
  obtain ⟨k, rfl⟩ := mem_voices_resetWith hvc
  exact h k

/-- The frame of R9 has at least one line. -/
theorem height_pos_of_wf {c : Config} (h : c.wf = true) : 0 < c.h := by
  simp only [Config.wf, decide_eq_true_eq] at h
  omega

end Sys2Proof.Machine

namespace Sys2Proof.Proofs

open Sys2Proof Sys2Proof.Machine

/-- Settles O26: the one effect that sets the latch is a raise; in a halted domain no turn runs anything, so what
changes is what lands. -/
theorem videoFaultHalts : Obligations.VideoFaultHalts := by
  refine ⟨fun s t i hp hf h ht => exec_vcmd_faulted hp hf h ht, fun s t i hp h => exec_seq_fault hp h,
    fun s t hr hf h => ?_⟩
  cases step_videoMove h with
  | inputs frame _ _ words responses => exact ⟨frame, words, responses⟩
  | effect _ _ _ hu | illegal _ _ hu => simp [hf] at hu
  | release hrel => simp [hr] at hrel

/-- Settles O27: as for the video domain; of the adapter's answers only the silent one is left. -/
theorem audioFaultSilences : Obligations.AudioFaultSilences := by
  refine ⟨fun s t i hp hs h ht => exec_acmd_faulted hp hs h ht,
    fun s n hs hf hn => ⟨_, exec_pull_faulted hs hf hn, rfl, rfl⟩, fun s t hr hf h => ?_⟩
  cases step_audioMove h with
  | inputs frame _ words responses =>
    rw [frame]
    exact ⟨rfl, words, responses⟩
  | packet _ _ _ _ hu | illegal _ _ _ hu => simp [hf] at hu
  | pull n _ _ _ made =>
    rw [made.faulted hf]
    exact ⟨rfl, ⟨[], List.append_nil _⟩, List.suffix_rfl⟩
  | release hrel => simp [hr] at hrel

/-- Settles O11: the release is the reset action, whose two domains are at their reset values. -/
theorem releaseOfResetResets : Obligations.ReleaseOfResetResets := by
  intro s hr hm
  have hstep : step s = .next s.nextMove.2.resetAction :=
    step_move_stay hm (by simp [State.move, State.setReset, hr])
  refine ⟨_, hstep, VideoState.resetWith_atReset .., ?_, s.nextMove_cfg, rfl, ?_, ?_⟩
  · rw [← s.nextMove_cfg]
    exact AudioState.resetWith_atReset ..
  · simp [State.resetAction, VideoState.resetWith]
  · simp [State.resetAction]

/-- Settles O7: each input's move is one equation; what keeps `SEQ.QUIT` and `NOW` is read off a step's causes. -/
theorem inputsLand : Obligations.InputsLand := by
  refine ⟨fun s => ⟨fun hm => ?_, fun level hm => ?_, fun n hm hn => ?_, fun w hm => ?_, fun w hm hs => ?_,
      fun hm => ?_, fun hm hs => ?_, fun hm => ?_, fun hm hr => ?_⟩,
    fun s t h hne => (step_inReset h).resolve_left hne, fun s t hr hq h => (step_videoMove h).quit hr hq,
    fun s t h => (step_videoMove h).now⟩
  · exact step_move_stay hm (by simp [State.move])
  · exact step_move_stay hm (by simp [State.move])
  · exact ⟨_, step_move_stay hm (by simp only [State.move, State.tick, State.nextMove_video, if_pos hn]),
      BitVec.toNat_add_of_lt hn⟩
  · exact step_move_stay hm (by simp [State.move])
  · exact step_move_stay hm (by simp [State.move, hs])
  · exact step_move_stay hm (by simp [State.move])
  · exact step_move_stay hm (by simp [State.move, hs])
  · exact step_move_stay hm (by simp [State.move, State.setReset])
  · exact step_move_stay hm (by simp [State.move, State.setReset, hr])

/-- Settles O25: the table's entry for the packet's column decides which of the three lemmas applies. -/
theorem accessRights : Obligations.AccessRights := by
  intro s i c hc hf
  refine ⟨fun hp => ⟨fun hh => ?_, fun hn => ?_⟩, fun hp => ⟨fun hx => ?_, fun hx => ?_, fun hx => ?_⟩,
    fun hp => ⟨fun hx => ?_, fun hx => ?_, fun hx => ?_⟩, fun hp => ?_⟩
  · exact exec_refused hc hf (by rw [hp, hh]; rfl)
  · refine exec_accepted hc hf ?_
    rw [hp]
    cases c with
    | hookret => exact absurd rfl hn
    | _ => rfl
  · exact exec_refused hc hf (by rw [hp, hx]; rfl)
  · exact exec_refused hc hf (by rw [hp, hx]; rfl)
  · exact exec_accepted hc hf (by rw [hp]; rcases hx with rfl | rfl | rfl <;> rfl)
  · exact exec_refused hc hf (by rw [hp, hx]; rfl)
  · exact exec_refused hc hf (by rw [hp]; rcases hx with rfl | rfl <;> rfl)
  · exact exec_accepted hc hf (by rw [hp]; rcases hx with rfl | rfl <;> rfl)
  · exact exec_held hc hf (by rcases hp with hp | hp | hp | hp <;> rw [hp] <;> rfl)

/-- Settles O5: the turn of the domain takes the packet's words and runs it. -/
theorem stepRunsDecodedPackets : Obligations.StepRunsDecodedPackets := by
  intro s i rest hr
  refine ⟨fun hm hp hd => ?_, fun hm ha hd => ?_⟩
  · have ht := s.nextMove.2.videoTurn_packet (i := i) (rest := rest) (by simpa)
      (by simpa [State.canPaint] using hp) (by simpa)
    simpa using step_move_run hm ht
  · have ht := s.nextMove.2.audioTurn_packet (i := i) (rest := rest) (by simpa)
      (by simpa [State.audioRuns] using ha) (by simpa)
    simpa using step_move_run hm ht

/-- Settles O6: in each phase the turn has one outcome. -/
theorem stepRunsSequencerAndPull : Obligations.StepRunsSequencerAndPull := by
  intro s hr
  refine ⟨fun hm hf => ?_, fun hm ha hd => ?_, fun n hm => ?_⟩
  · have own (i : Instr) (ho : s.video.phase.ownStep = some i) : step s = exec i s.nextMove.2 :=
      step_move_run hm (State.videoTurn_ownStep (by simpa) (by simpa) (by simpa))
    have wait (hd : decodeVideo s.cfg.fmt s.video.vcmd = .short) (i : Instr) (hw : s.video.phase.wait = some i) :
        step s = exec i s.nextMove.2 :=
      step_move_run hm (State.videoTurn_wait (by simpa) (by simpa) (by simpa) (by simpa))
    refine ⟨fun hp => own _ (by rw [hp]; rfl), fun hp => own _ (by rw [hp]; rfl), fun hp => own _ (by rw [hp]; rfl),
      fun hp => own _ (by rw [hp]; rfl), fun hd => ⟨fun hp => wait hd _ (by rw [hp]; rfl),
      fun hp => wait hd _ (by rw [hp]; rfl), fun hp => ?_⟩⟩
    exact step_move_stay hm (State.videoTurn_stopped (by simpa) (by simp [State.isStopped, hf, hp]) (by simpa))
  · exact step_move_stay hm (State.audioTurn_short (by simpa) (by simpa [State.audioRuns] using ha) (by simpa))
  · by_cases hs : s.cfg.sr = 0
    · rw [step_move_refuse hm (State.audioInput_absent (by simpa) _), exec_pull_absent (by simpa)]
    · exact step_move_run hm (by simp [State.move, hs, hr])

end Sys2Proof.Proofs
end

section
/-! PROOFS of the statements on the block in reset, the invariants right after reset, the inputs that are no moves,
and the faults and results of the voice commands (`spec/70_reset_and_hazards.md`, `spec/10_state.md` R62,
`spec/43_oscillator.md`, `spec/44_envelope.md`, `spec/45_biquad.md`). -/

namespace Sys2Proof.Machine

/-! ### The block in reset (R330) -/

/-- In reset a turn of a domain, or a PULL, is the move and nothing else. -/
theorem State.move_held {s t : State} {m : Move} (hr : s.inReset = true)
    (hm : m = .video ∨ m = .audio ∨ ∃ n, m = .pull n) (h : s.move m = .stay t) : t = s := by
  rcases hm with rfl | rfl | ⟨n, rfl⟩
  · cases (State.videoTurn_inReset hr).symm.trans h
    rfl
  · cases (State.audioTurn_inReset hr).symm.trans h
    rfl
  · rcases State.audioInput_cases h with ⟨-, hg⟩ | ⟨-, hg⟩
    · cases hg
    · rw [if_pos hr] at hg
      cases hg
      rfl

/-- In reset no move runs an instruction. -/
theorem State.move_run_inReset {s s' : State} {m : Move} {i : Instr} (h : s.move m = .run i s') :
    s.inReset = false := by
  rcases State.move_run h with ⟨-, hv⟩ | ⟨-, ha⟩ | ⟨n, -, -, hr, -⟩
  · exact (State.videoTurn_run hv).1
  · exact (State.audioTurn_run ha).1
  · exact hr

theorem VideoMove.events_inReset {s t : State} (hm : VideoMove s t) (hr : s.inReset = true) :
    t.video.events = s.video.events := by
  cases hm with
  | inputs frame => rw [frame]
  | effect _ _ runs | illegal _ runs => simp [hr] at runs
  | release _ made => rw [made]; rfl

theorem AudioMove.events_inReset {s t : State} (hm : AudioMove s t) (hr : s.inReset = true) :
    t.audio.events = s.audio.events := by
  cases hm with
  | inputs frame => rw [frame]
  | packet _ _ runs | illegal _ runs | pull _ runs => simp [hr] at runs
  | release _ made => rw [made]; simp

/-! ### Inputs that are no moves (R12, R36, R266) -/

theorem step_move_stop {s : State} {m : Move} {why : Fault} (hm : s.nextMove.1 = m)
    (h : s.nextMove.2.move m = .stop why) : step s = .fault why := by
  simp [step, State.fetch, hm, h]

theorem exec_pull_tooLong {n : BitVec 16} {s : State} (hs : s.cfg.sr ≠ 0) (hn : s.cfg.abufSize < n.toNat) :
    exec (.pull n) s = .fault .pullTooLong := by
  unfold exec
  exact (if_neg hs).trans (if_pos hn)

theorem exec_pull_duringFill {n : BitVec 16} {s : State} (h : s.audioRuns) (hn : n.toNat ≤ s.cfg.abufSize)
    (hm : s.cfg.audioMode = .inline) (ha : s.audio.fillActive = true) :
    exec (.pull n) s = .fault .pullDuringFill := by
  unfold exec
  simp [execPull, h.1, h.2, hn, hm, ha]

/-! ### The operands of a voice command (R107, R108) -/

theorem finiteOperand_nonfinite {f : Fmt} {r : FReal} (h : isFinite f r = false) :
    finiteOperand f r = .error .badparam := by simp [finiteOperand, h]

/-- A command with a `UNIT` is a voice command, whose pseudocode begins with the check of its `REAL` operand. -/
theorem exec_unit {i : Instr} {v : Byte} (hu : unitOf i = some v) (s : State) :
    ∃ body, exec i s = voiceCommand v s body ∧
      ∀ r, realOf i = some r → isFinite s.cfg.fmt r = false → ∀ vc draw, body vc draw = .error .badparam := by
  unfold exec
  cases i with
  | oscfreq | oscdet | envatk | envdec | envsus | envrel | fltproc | fltcut | fltres =>
    cases hu
    refine ⟨_, rfl, fun r hr hf vc draw => ?_⟩
    cases hr
    simp only [finiteOperand_nonfinite hf]
  | oscnext | oscrst | oscnote | oscwave | envnext | envon | envoff | envrst | fltrst | flttype | voice =>
    cases hu
    exact ⟨_, rfl, fun r hr => nomatch hr⟩
  | _ => cases hu

/-- A voice inside the file exists. -/
theorem exists_hasVoice {s : State} {v : Byte} (h : s.audioRuns) (hv : v.toNat < s.audio.voices.length) :
    ∃ vc, s.hasVoice v vc := ⟨_, h, List.getElem?_eq_getElem hv⟩

/-! ### OSCNEXT (R203) -/

theorem Param.rd_unwritten {α : Type} {p : Param α} (h : p.written = false) : p.rd = .error .uninit := by
  simp [rd, h]

section OscNext

variable {c : Config} {o : Osc} {draw : FReal}

theorem Osc.next_uninit (h : (o.freq.written && o.detune.written && o.wave.written) = false) :
    o.next c draw = .error .uninit := by
  unfold next
  split
  next hf hd hw => simp [Param.rd_ok hf, Param.rd_ok hd, Param.rd_ok hw] at h
  next => rfl

theorem Osc.next_written (h : (o.freq.written && o.detune.written && o.wave.written) = true) :
    let e := effFreq c.fmt o.freq.value o.detune.value
    let inc := fdiv c.fmt e (sampleRate c)
    let q := fadd c.fmt o.phase inc
    o.next c draw =
      if isFinite c.fmt e && isFinite c.fmt inc then
        .ok (waveValue c.fmt o.wave.value o.phase o.noise,
          { o with
            inc := inc, phase := wrapPhase c.fmt q, noise := if wrapped c.fmt q then draw else o.noise },
          wrapped c.fmt q)
      else .error .badparam := by
  simp only [Bool.and_eq_true] at h
  obtain ⟨⟨hf, hd⟩, hw⟩ := h
  simp only [next, Param.rd_written hf, Param.rd_written hd, Param.rd_written hw]

theorem exec_oscnext_error {s : State} {v : Byte} {vc : Voice} {k : Cause} (h : s.hasVoice v vc)
    (ho : vc.osc.next s.cfg (drawNoise s.cfg.fmt s.audio.draws) = .error k) :
    exec (.oscnext v) s = .next (s.audioFault k) := by
  unfold exec
  exact voiceCommand_error h (by simp only [ho])

end OscNext

/-! ### ENVNEXT (R221) -/

theorem exec_envnext_error {s : State} {v : Byte} {vc : Voice} {k : Cause} (h : s.hasVoice v vc)
    (he : vc.env.next s.cfg = .error k) : exec (.envnext v) s = .next (s.audioFault k) := by
  unfold exec
  exact voiceCommand_error h (by simp only [he])

section EnvNextEquations

variable {c : Config} {e : Env}

/-- Writing the stage that is there changes nothing. -/
theorem Env.withValue_stage {st : Stage} (h : e.stage = st) (x : FReal) :
    ({ e with value := x } : Env) = { e with value := x, stage := st } := by rw [← h]

theorem Env.next_idle (h : e.stage = .idle) : e.next c = .ok { e with value := fzero, stage := .idle } := by
  rw [← withValue_stage h]
  simp only [next, h]

theorem Env.next_attack (h : e.stage = .attack) (ha : e.attack.written = true) :
    let val := fadd c.fmt e.value (fdiv c.fmt (envStep c) e.attack.value)
    e.next c = if fle c.fmt e.attack.value fzero || fle c.fmt (fone c.fmt) val
      then .ok { e with value := fone c.fmt, stage := .decay } else .ok { e with value := val, stage := .attack } := by
  intro val
  rw [← withValue_stage h]
  simp only [next, h, Param.rd_written ha, val]

theorem Env.next_decay (h : e.stage = .decay) (hd : e.decay.written = true) (hs : e.sustain.written = true) :
    let val := fsub c.fmt e.value (fdiv c.fmt (envStep c) e.decay.value)
    e.next c = if fle c.fmt e.decay.value fzero || fle c.fmt val e.sustain.value
      then .ok { e with value := e.sustain.value, stage := .sustain }
      else .ok { e with value := val, stage := .decay } := by
  intro val
  rw [← withValue_stage h]
  simp only [next, h, Param.rd_written hd, Param.rd_written hs, val]

theorem Env.next_sustain (h : e.stage = .sustain) (hs : e.sustain.written = true) :
    e.next c = .ok { e with value := e.sustain.value, stage := .sustain } := by
  rw [← withValue_stage h]
  simp only [next, h, Param.rd_written hs]

theorem Env.next_release (h : e.stage = .release) (hr : e.release.written = true) :
    let val := fsub c.fmt e.value (fdiv c.fmt (fmul c.fmt e.relstart (envStep c)) e.release.value)
    e.next c = if fle c.fmt e.release.value fzero || fle c.fmt val fzero
      then .ok { e with value := fzero, stage := .idle } else .ok { e with value := val, stage := .release } := by
  intro val
  rw [← withValue_stage h]
  simp only [next, h, Param.rd_written hr, val]

/-- The stage reads a parameter that is not written. -/
theorem Env.next_uninit
    (h : (e.stage = .attack ∧ e.attack.written = false) ∨
      (e.stage = .decay ∧ (e.decay.written = false ∨ e.sustain.written = false)) ∨
      (e.stage = .sustain ∧ e.sustain.written = false) ∨ (e.stage = .release ∧ e.release.written = false)) :
    e.next c = .error .uninit := by
  rcases h with ⟨hst, hw⟩ | ⟨hst, hw | hw⟩ | ⟨hst, hw⟩ | ⟨hst, hw⟩
  · simp [next, hst, Param.rd_unwritten hw]
  · simp [next, hst, Param.rd_unwritten hw]
  · cases hd : e.decay.written <;> simp [next, hst, Param.rd, hw, hd]
  · simp [next, hst, Param.rd_unwritten hw]
  · simp [next, hst, Param.rd_unwritten hw]

end EnvNextEquations

end Sys2Proof.Machine

namespace Sys2Proof.Proofs

open Sys2Proof Sys2Proof.Machine

/-- Settles O8: in reset no move runs an instruction, so what is left is the inputs and the release. -/
theorem resetHoldsTheBlock : Obligations.ResetHoldsTheBlock := by
  intro s t hr h
  refine ⟨fun hm => ?_, (step_videoMove h).events_inReset hr, (step_audioMove h).events_inReset hr⟩
  rcases step_cases h with hf | ⟨i, s', hf, -⟩
  · exact State.move_held (by simpa) hm hf
  · have hrun := State.move_run_inReset hf
    simp [hr] at hrun

/-- Settles O12: each invariant of the reset value of its part. -/
theorem invariantsHoldAtReset : Obligations.InvariantsHoldAtReset := by
  intro c hc
  have hline : 0 < c.h := height_pos_of_wf hc
  refine ⟨?_, ?_, State.adapterOk_resetIn c, ?_, ?_, ?_, ?_⟩
  · exact Bool.and_eq_true_iff.mpr ⟨VideoState.memoriesOk_resetWith .., AudioState.memoriesOk_resetWith ..⟩
  · exact State.sequencerOk_iff.mpr ⟨hline, le_refl _, Nat.zero_le _, rfl⟩
  · exact State.traceOk_iff.mpr ⟨rfl, hline⟩
  · exact voices_resetIn fun k => Osc.ok_iff.mpr (Osc.ok_reset (inUnit_drawNoise _ _))
  · exact voices_resetIn fun _ => Env.ok_iff.mpr (Env.ok_reset _)
  · exact voices_resetIn fun _ => Filter.ok_iff.mpr (Filter.finite_reset _)

/-- Settles O59: each is the guard of the input's own definition. -/
theorem noMoveStops : Obligations.NoMoveStops := by
  refine ⟨fun s n => ⟨fun hs => ⟨exec_pull_absent hs, fun i hp => exec_acmd_absent hs hp⟩, exec_pull_tooLong,
    exec_pull_duringFill⟩, fun s hs hm => ?_, fun s n hm hn => ?_⟩
  · have habsent (f : Fetched) := State.audioInput_absent (s := s.nextMove.2) (by simpa) f
    rcases hm with ⟨n, hm⟩ | ⟨w, hm⟩ | hm <;> exact step_move_refuse hm (habsent _)
  · exact step_move_stop hm (by simp only [State.move, State.tick, State.nextMove_video, if_neg (Nat.not_lt.mpr hn)])

/-- Settles O54: the voice is looked up before the operand is checked, and both before anything is written. -/
theorem voiceOperandsAreChecked : Obligations.VoiceOperandsAreChecked := by
  intro s i v hu hs
  obtain ⟨body, hexec, hreal⟩ := exec_unit hu s
  rw [hexec]
  refine ⟨voiceCommand_noVoice hs, fun r hv hr hf => ?_⟩
  obtain ⟨vc, hvc⟩ := exists_hasVoice hs hv
  exact voiceCommand_error hvc (hreal r hr hf _ _)

/-- Settles O46: the three outcomes of the registers' step. -/
theorem oscnextAdvances : Obligations.OscnextAdvances := by
  intro s v vc hvc f fr e inc q r wraps out written
  refine ⟨fun hw => exec_oscnext_error hvc (Osc.next_uninit hw), fun hw hfin => ?_, fun hw he hinc => ?_⟩
  · exact exec_oscnext_error hvc ((Osc.next_written hw).trans (if_neg (by rw [Bool.not_eq_true]; exact hfin)))
  · have hfin : (isFinite f e && isFinite f inc) = true := by rw [he, hinc]; rfl
    have hdraws (w : Bool) (hw : w = false) : s.audio.draws + (if w then 1 else 0) = s.audio.draws := by simp [hw]
    refine ⟨_, _, exec_oscnext hvc ((Osc.next_written hw).trans (if_pos hfin)),
      fun hn => ⟨if_neg (Bool.eq_false_iff.mp hn), hdraws _ hn⟩, fun hy => ?_⟩
    exact (congrArg (inUnit f) (if_pos hy)).trans (inUnit_drawNoise _ _)

/-- Settles O49: one equation for each stage. -/
theorem envnextRunsOneStage : Obligations.EnvnextRunsOneStage := by
  intro s v vc hvc f e dt one goes rise fall drop
  have go {e' : Env} (h : e.next s.cfg = .ok e') := exec_envnext hvc h
  refine ⟨fun hst => go (Env.next_idle hst), fun hst ha => ?_, fun hst hd hs => ?_,
    fun hst hs => go (Env.next_sustain hst hs), fun hst hr => ?_,
    fun h => exec_envnext_error hvc (Env.next_uninit h)⟩
  · split
    · next hc => exact go ((Env.next_attack hst ha).trans (if_pos hc))
    · next hc => exact go ((Env.next_attack hst ha).trans (if_neg hc))
  · split
    · next hc => exact go ((Env.next_decay hst hd hs).trans (if_pos hc))
    · next hc => exact go ((Env.next_decay hst hd hs).trans (if_neg hc))
  · split
    · next hc => exact go ((Env.next_release hst hr).trans (if_pos hc))
    · next hc => exact go ((Env.next_release hst hr).trans (if_neg hc))

/-- Settles O52: the coefficients are the rule's by their definition, once the type and the form are known. -/
theorem cookbookCoefficients : Obligations.CookbookCoefficients := by
  intro c ty cut res old f n sr lo top fc q w0 cs sn alpha a0 new
  refine ⟨rfl, rfl, rfl, ?_, ?_, ?_, ?_⟩
  · rintro rfl
    exact ⟨rfl, rfl, rfl⟩
  · rintro rfl
    exact ⟨rfl, rfl, rfl⟩
  · rintro rfl hb
    simp only [new, Filter.coefficients, hb]
    exact ⟨rfl, rfl, rfl⟩
  · rintro rfl hb
    simp only [new, Filter.coefficients, hb]
    exact ⟨rfl, rfl, rfl⟩

end Sys2Proof.Proofs
end

section
/-! PROOFS of the statements on the encoding (`spec/30_encoding.md` R101 to R113). Each field word is the encoding of
the field it is read as; each header mask leaves the headers of one shape; so each row of the opcode map reads exactly
the packets of its instructions. -/

namespace Sys2Proof

/-! ### Words and their fields (R102, R105, R106, R109) -/

theorem hdrOpc_header (o : BitVec 8) (u : Byte) (a : BitVec 16) : hdrOpc (header o u a) = o := by
  unfold hdrOpc header
  rw [BitVec.extractLsb'_append_eq_of_le (by decide)]
  exact BitVec.extractLsb'_append_eq_left

theorem hdrUnit_header (o : BitVec 8) (u : Byte) (a : BitVec 16) : hdrUnit (header o u a) = u := by
  unfold hdrUnit header
  rw [BitVec.extractLsb'_append_eq_of_le (by decide)]
  exact BitVec.extractLsb'_append_eq_right

theorem hdrA_header (o : BitVec 8) (u : Byte) (a : BitVec 16) : hdrA (header o u a) = a :=
  BitVec.extractLsb'_append_eq_right

theorem header_fields (h : Word) : header (hdrOpc h) (hdrUnit h) (hdrA h) = h := by
  unfold header hdrOpc hdrUnit hdrA
  rw [BitVec.extractLsb'_append_extractLsb'_eq_extractLsb' (start₂ := 24) rfl,
    BitVec.extractLsb'_append_extractLsb'_eq_extractLsb' (start₂ := 16) rfl]
  exact BitVec.extractLsb'_eq_self

theorem header_and (o o' : BitVec 8) (u u' : Byte) (a a' : BitVec 16) :
    header o u a &&& header o' u' a' = header (o &&& o') (u &&& u') (a &&& a') := by
  unfold header
  rw [BitVec.and_append, BitVec.and_append]

theorem header_inj {o o' : BitVec 8} {u u' : Byte} {a a' : BitVec 16} :
    header o u a = header o' u' a' ↔ o = o' ∧ u = u' ∧ a = a' := by
  refine ⟨fun h => ⟨?_, ?_, ?_⟩, by rintro ⟨rfl, rfl, rfl⟩; rfl⟩
  · simpa [hdrOpc_header] using congrArg hdrOpc h
  · simpa [hdrUnit_header] using congrArg hdrUnit h
  · simpa [hdrA_header] using congrArg hdrA h

theorem lowHalf_pairWord (x y : BitVec 16) : lowHalf (pairWord x y) = x := BitVec.extractLsb'_append_eq_right

theorem highHalf_pairWord (x y : BitVec 16) : highHalf (pairWord x y) = y := BitVec.extractLsb'_append_eq_left

theorem pairWord_halves (w : Word) : pairWord (lowHalf w) (highHalf w) = w := by
  unfold pairWord lowHalf highHalf
  rw [BitVec.extractLsb'_append_extractLsb'_eq_extractLsb' (start₂ := 16) rfl]
  exact BitVec.extractLsb'_eq_self

/-- A `LEN`, `COUNT` or `SAMPLE` word is read only where it encodes what is read. -/
theorem half?_eq_some {w : Word} {n : BitVec 16} : half? w = some n ↔ w = halfWord n := by
  unfold half?
  constructor
  · intro h
    split at h <;> cases h
    next hz => rw [← pairWord_halves w, hz, lowHalf_pairWord]; rfl
  · rintro rfl
    exact (if_pos (highHalf_pairWord n 0)).trans (congrArg some (lowHalf_pairWord n 0))

/-- The four bytes of a word, least significant last. -/
theorem bytes_append (w : Word) :
    w.extractLsb' 24 8 ++ w.extractLsb' 16 8 ++ w.extractLsb' 8 8 ++ w.extractLsb' 0 8 = w := by
  rw [BitVec.extractLsb'_append_extractLsb'_eq_extractLsb' (start₂ := 24) rfl,
    BitVec.extractLsb'_append_extractLsb'_eq_extractLsb' (start₂ := 16) rfl,
    BitVec.extractLsb'_append_extractLsb'_eq_extractLsb' (start₂ := 8) rfl]
  exact BitVec.extractLsb'_eq_self

theorem extract_bytes (d c b a : Byte) :
    (d ++ c ++ b ++ a : Word).extractLsb' 0 8 = a ∧ (d ++ c ++ b ++ a : Word).extractLsb' 8 8 = b ∧
      (d ++ c ++ b ++ a : Word).extractLsb' 16 8 = c ∧ (d ++ c ++ b ++ a : Word).extractLsb' 24 8 = d := by
  refine ⟨BitVec.extractLsb'_append_eq_right, ?_, ?_, ?_⟩ <;>
    rw [BitVec.extractLsb'_append_eq_of_le (by decide)]
  · exact BitVec.extractLsb'_append_eq_right
  · rw [BitVec.extractLsb'_append_eq_of_le (by decide)]
    exact BitVec.extractLsb'_append_eq_right
  · rw [BitVec.extractLsb'_append_eq_of_le (by decide)]
    exact BitVec.extractLsb'_append_eq_left

/-- An `RGB` word is read only where it encodes what is read. -/
theorem rgb?_eq_some {w : Word} {c : RGB} : rgb? w = some c ↔ w = rgbWord c := by
  unfold rgb?
  constructor
  · intro h
    split at h <;> cases h
    next hz => exact (bytes_append w).symm.trans (by rw [hz]; rfl)
  · rintro rfl
    obtain ⟨hz, hr, hg, hb⟩ := Machine.rgbWord_bytes c
    rw [if_pos hz, hr, hg, hb]

/-! ### Reals (R107) -/

theorem realWords_binary32 {r : FReal} (h : r.toNat < 2 ^ 32) : (r.extractLsb' 0 32).setWidth 64 = r := by
  apply BitVec.eq_of_toNat_eq
  simp
  omega

theorem extract_setWidth (w : Word) : w = (w.setWidth 64).extractLsb' 0 32 := by
  apply BitVec.eq_of_toNat_eq
  simp
  omega

/-- A `REAL` operand is read only where its words are a value's, and the value fits the format. -/
theorem real?_eq_some {f : Fmt} {ws : List Word} {r : FReal} :
    real? f ws = some r ↔ f.fits r = true ∧ ws = realWords f r := by
  constructor
  · intro h
    unfold real? at h
    split at h <;> cases h
    next w => exact ⟨by simp [Fmt.fits]; omega, congrArg (· :: []) (extract_setWidth w)⟩
    next lo hi =>
      have hlo : (hi ++ lo : FReal).extractLsb' 0 32 = lo := BitVec.extractLsb'_append_eq_right
      have hhi : (hi ++ lo : FReal).extractLsb' 32 32 = hi := BitVec.extractLsb'_append_eq_left
      exact ⟨rfl, by rw [realWords, hlo, hhi]⟩
  · rintro ⟨hfits, rfl⟩
    cases f with
    | binary32 => exact congrArg some (realWords_binary32 (by simpa [Fmt.fits] using hfits))
    | binary64 => exact congrArg some BitVec.extractLsb'_append_extractLsb'

/-! ### The payload of a BLIT (R109) -/

theorem length_unpackBytes : ∀ ws : List Word, (unpackBytes ws).length = 4 * ws.length
  | [] => rfl
  | w :: ws => by simp only [unpackBytes, List.length_cons, length_unpackBytes ws]; omega

theorem unpackBytes_injective : ∀ {ws ws' : List Word}, unpackBytes ws = unpackBytes ws' → ws = ws'
  | [], [], _ => rfl
  | [], _ :: _, h => nomatch h
  | _ :: _, [], h => nomatch h
  | w :: ws, w' :: ws', h => by
    simp only [unpackBytes, List.cons.injEq] at h
    obtain ⟨h0, h1, h2, h3, htl⟩ := h
    rw [unpackBytes_injective htl, ← bytes_append w, ← bytes_append w', h0, h1, h2, h3]

theorem unpackBytes_word (d c b a : Byte) (ws : List Word) :
    unpackBytes ((d ++ c ++ b ++ a : Word) :: ws) = a :: b :: c :: d :: unpackBytes ws := by
  obtain ⟨h0, h1, h2, h3⟩ := extract_bytes d c b a
  rw [unpackBytes, h0, h1, h2, h3]

/-- The packed bytes read back, the pad bytes 0. -/
theorem unpackBytes_packBytes : ∀ bs : List Byte,
    unpackBytes (packBytes bs) = bs ++ List.replicate (4 * ((bs.length + 3) / 4) - bs.length) 0
  | [] => rfl
  | [a] => by rw [packBytes, unpackBytes_word]; simp [unpackBytes]
  | [a, b] => by rw [packBytes, unpackBytes_word]; simp [unpackBytes]
  | [a, b, c] => by rw [packBytes, unpackBytes_word]; simp [unpackBytes]
  | a :: b :: c :: d :: bs => by
    have hpad : 4 * ((bs.length + 4 + 3) / 4) - (bs.length + 4) = 4 * ((bs.length + 3) / 4) - bs.length := by omega
    rw [packBytes, unpackBytes_word, unpackBytes_packBytes bs]
    simp only [List.length_cons, hpad, List.cons_append]

/-- The payload is read only where it is the bytes' packing. -/
theorem payload?_eq_some {len : Nat} {ws : List Word} {bs : List Byte} (hw : ws.length = (len + 3) / 4) :
    payload? len ws = some bs ↔ bs.length = len ∧ ws = packBytes bs := by
  have hlen := length_unpackBytes ws
  unfold payload?
  constructor
  · intro h
    split at h <;> cases h
    next hpad =>
    have htake : ((unpackBytes ws).take len).length = len := by simp; omega
    refine ⟨htake, unpackBytes_injective ?_⟩
    rw [unpackBytes_packBytes, htake, ← hw, ← hlen, ← hpad, List.take_append_drop]
  · rintro ⟨rfl, rfl⟩
    rw [unpackBytes_packBytes]
    simp

/-! ### The header masks (R102, R113) -/

/-- A mask over the `UNIT` and `A` fields, and the pattern of an opcode: which headers match. -/
theorem header_mask_iff {h : Word} {o : BitVec 8} {mu : Byte} {ma : BitVec 16} :
    h &&& header (BitVec.allOnes 8) mu ma = header o 0 0 ↔
      hdrOpc h = o ∧ hdrUnit h &&& mu = 0 ∧ hdrA h &&& ma = 0 := by
  conv_lhs => rw [← header_fields h, header_and, header_inj, BitVec.and_allOnes]

theorem eq_header_iff {h : Word} {o : BitVec 8} {u : Byte} {a : BitVec 16} :
    h = header o u a ↔ hdrOpc h = o ∧ hdrUnit h = u ∧ hdrA h = a := by
  conv_lhs => rw [← header_fields h, header_inj]

theorem append_inj {v w : Nat} {x x' : BitVec v} {y y' : BitVec w} : x ++ y = x' ++ y' ↔ x = x' ∧ y = y' := by
  refine ⟨fun h => ⟨?_, ?_⟩, by rintro ⟨rfl, rfl⟩; rfl⟩
  · simpa [BitVec.extractLsb'_append_eq_left] using congrArg (BitVec.extractLsb' w v) h
  · simpa [BitVec.extractLsb'_append_eq_right] using congrArg (BitVec.extractLsb' 0 w) h

/-- A mask over the upper bits of a field leaves the values that the lower bits give. -/
theorem and_highOnes_eq_zero_iff {v w : Nat} (x : BitVec (v + w)) :
    x &&& (BitVec.allOnes v ++ 0#w) = 0#v ++ 0#w ↔ x = 0#v ++ x.extractLsb' 0 w := by
  have hx : x = x.extractLsb' w v ++ x.extractLsb' 0 w := BitVec.extractLsb'_append_extractLsb'.symm
  conv_lhs => rw [hx, BitVec.and_append, append_inj, BitVec.and_allOnes]
  conv_rhs => lhs; rw [hx]
  rw [append_inj]
  simp

theorem extract_one_bit {v : Nat} (x : BitVec v) (k : Nat) : x.extractLsb' k 1 = BitVec.ofBool (x.getLsbD k) := by
  ext i hi
  obtain rfl : i = 0 := by omega
  simp

theorem extract_hdrA (h : Word) {w : Nat} (hw : w ≤ 16) : (hdrA h).extractLsb' 0 w = h.extractLsb' 0 w := by
  ext i hi
  simp [hdrA]
  omega

/-- Which headers a mask leaves, from what it leaves of the `UNIT` field and of the `A` field. -/
theorem header_mask_shape {h : Word} {o : BitVec 8} {mu : Byte} {ma : BitVec 16} {fu : Byte} {fa : BitVec 16}
    (hu : hdrUnit h &&& mu = 0 ↔ hdrUnit h = fu) (ha : hdrA h &&& ma = 0 ↔ hdrA h = fa) :
    h &&& header (BitVec.allOnes 8) mu ma = header o 0 0 ↔ h = header o fu fa := by
  rw [header_mask_iff, eq_header_iff, hu, ha]

section Masks

variable {h : Word} (o : BitVec 8)

theorem and_allOnes_eq_zero_iff {w : Nat} {x : BitVec w} : x &&& BitVec.allOnes w = 0 ↔ x = 0 := by
  rw [BitVec.and_allOnes]

theorem and_zero_eq_zero_iff {w : Nat} {x : BitVec w} : x &&& 0 = 0 ↔ x = x := by simp

theorem mask_none_iff : h &&& 0xFFFFFFFF = header o 0 0 ↔ h = header o 0 0 :=
  header_mask_shape and_allOnes_eq_zero_iff and_allOnes_eq_zero_iff

theorem mask_a_iff : h &&& 0xFFFF0000 = header o 0 0 ↔ h = header o 0 (hdrA h) :=
  header_mask_shape and_allOnes_eq_zero_iff and_zero_eq_zero_iff

theorem mask_unit_iff : h &&& 0xFF00FFFF = header o 0 0 ↔ h = header o (hdrUnit h) 0 :=
  header_mask_shape and_zero_eq_zero_iff and_allOnes_eq_zero_iff

theorem mask_unitA_iff : h &&& 0xFF000000 = header o 0 0 ↔ h = header o (hdrUnit h) (hdrA h) :=
  header_mask_shape and_zero_eq_zero_iff and_zero_eq_zero_iff

theorem mask_idx_iff : h &&& 0xFFFFFF00 = header o 0 0 ↔ h = header o 0 (shortA (hdrIdx h)) := by
  refine header_mask_shape and_allOnes_eq_zero_iff ((and_highOnes_eq_zero_iff (v := 8) (w := 8) (hdrA h)).trans ?_)
  rw [extract_hdrA h (by decide)]
  rfl

theorem mask_tag3_iff : h &&& 0xFF00FFF8 = header o 0 0 ↔
    h = header o (hdrUnit h) ((0 : BitVec 13) ++ h.extractLsb' 0 3) := by
  refine header_mask_shape and_zero_eq_zero_iff ((and_highOnes_eq_zero_iff (v := 13) (w := 3) (hdrA h)).trans ?_)
  rw [extract_hdrA h (by decide)]
  rfl

theorem mask_tag2_iff : h &&& 0xFF00FFFC = header o 0 0 ↔
    h = header o (hdrUnit h) ((0 : BitVec 14) ++ h.extractLsb' 0 2) := by
  refine header_mask_shape and_zero_eq_zero_iff ((and_highOnes_eq_zero_iff (v := 14) (w := 2) (hdrA h)).trans ?_)
  rw [extract_hdrA h (by decide)]
  rfl

theorem mask_bit_iff : h &&& 0xFFFFFFFE = header o 0 0 ↔
    h = header o 0 ((0 : BitVec 15) ++ BitVec.ofBool (h.getLsbD 0)) := by
  refine header_mask_shape and_allOnes_eq_zero_iff ((and_highOnes_eq_zero_iff (v := 15) (w := 1) (hdrA h)).trans ?_)
  rw [extract_hdrA h (by decide), extract_one_bit]
  rfl

/-- ROTPAL's field: the direction in bit 15, an index in the low byte. -/
theorem and_rotpal_eq_zero_iff (a : BitVec 16) :
    a &&& 0x7F00 = 0 ↔ a = BitVec.ofBool (a.getLsbD 15) ++ (0 : BitVec 7) ++ a.extractLsb' 0 8 := by
  have ha : a = a.extractLsb' 15 1 ++ a.extractLsb' 8 7 ++ a.extractLsb' 0 8 := by
    rw [BitVec.extractLsb'_append_extractLsb'_eq_extractLsb' (start₂ := 15) rfl,
      BitVec.extractLsb'_append_extractLsb'_eq_extractLsb' (start₂ := 8) rfl]
    exact BitVec.extractLsb'_eq_self.symm
  have hm : (0x7F00 : BitVec 16) = 0#1 ++ BitVec.allOnes 7 ++ 0#8 := by decide
  have hz : (0 : BitVec 16) = 0#1 ++ 0#7 ++ 0#8 := by decide
  rw [← extract_one_bit]
  conv_lhs => rw [ha, hm, hz, BitVec.and_append, BitVec.and_append, append_inj, append_inj, BitVec.and_allOnes]
  conv_rhs => lhs; rw [ha]
  rw [append_inj, append_inj]
  simp

theorem mask_rotpal_iff : h &&& 0xFFFF7F00 = header o 0 0 ↔
    h = header o 0 (BitVec.ofBool (h.getLsbD 15) ++ (0 : BitVec 7) ++ hdrIdx h) := by
  refine header_mask_shape and_allOnes_eq_zero_iff ((and_rotpal_eq_zero_iff (hdrA h)).trans ?_)
  rw [extract_hdrA h (by decide), show (hdrA h).getLsbD 15 = h.getLsbD 15 by simp [hdrA]]
  rfl

end Masks

/-! ### The operand fields of an encoded header (R102) -/

section Fields

variable (o : BitVec 8) (u : Byte)

theorem extract_header (w : Nat) (hw : w ≤ 16) (a : BitVec 16) :
    (header o u a).extractLsb' 0 w = a.extractLsb' 0 w := by
  rw [← extract_hdrA _ hw, hdrA_header]

theorem hdrIdx_shortA (i : Byte) : hdrIdx (header o u (shortA i)) = i :=
  (extract_header o u 8 (by decide) _).trans BitVec.extractLsb'_append_eq_right

theorem hdrIdx_rotpal (d : Bool) (i : Byte) :
    hdrIdx (header o u (BitVec.ofBool d ++ (0 : BitVec 7) ++ i)) = i :=
  (extract_header o u 8 (by decide) _).trans BitVec.extractLsb'_append_eq_right

theorem tag3_header (t : BitVec 3) : (header o u ((0 : BitVec 13) ++ t)).extractLsb' 0 3 = t :=
  (extract_header o u 3 (by decide) _).trans BitVec.extractLsb'_append_eq_right

theorem tag2_header (t : BitVec 2) : (header o u ((0 : BitVec 14) ++ t)).extractLsb' 0 2 = t :=
  (extract_header o u 2 (by decide) _).trans BitVec.extractLsb'_append_eq_right

theorem getLsbD_header {k : Nat} (hk : k < 16) (a : BitVec 16) : (header o u a).getLsbD k = a.getLsbD k := by
  unfold header
  rw [BitVec.getLsbD_append, if_pos hk]

theorem direction_header (d : Bool) (i : Byte) :
    (header o u (BitVec.ofBool d ++ (0 : BitVec 7) ++ i)).getLsbD 15 = d := by
  rw [getLsbD_header o u (by decide), BitVec.getLsbD_append, BitVec.getLsbD_append]
  simp

theorem flag_header (b : Bool) : (header o u ((0 : BitVec 15) ++ BitVec.ofBool b)).getLsbD 0 = b := by
  rw [getLsbD_header o u (by decide), BitVec.getLsbD_append]
  simp

end Fields

/-! ### What a row reads (R103, R110) -/

/-- Row `r` reads instruction `i` from header `h` and the operand words `ops`. -/
structure Row.Reads (r : Row) (f : Fmt) (h : Word) (ops : List Word) (i : Instr) : Prop where
  header : h &&& r.mask = r.pat
  count : ∀ rest, operandCount f r.format (ops ++ rest) = some ops.length
  built : r.build f h ops = some i

section Rows

variable {m p h : Word} {f : Fmt} {ops : List Word} {i : Instr}

theorem row0_reads {k : Word → Instr} :
    (row0 m p k).Reads f h ops i ↔ h &&& m = p ∧ ops = [] ∧ i = k h := by
  constructor
  · rintro ⟨hm, hc, hb⟩
    obtain rfl : ops = [] := List.length_eq_zero_iff.mp (Option.some.inj (hc [])).symm
    exact ⟨hm, rfl, (Option.some.inj hb).symm⟩
  · rintro ⟨hm, rfl, rfl⟩
    exact ⟨hm, fun _ => rfl, rfl⟩

theorem row1_reads {k : Word → Word → Option Instr} :
    (row1 m p k).Reads f h ops i ↔ h &&& m = p ∧ ∃ a, ops = [a] ∧ k h a = some i := by
  constructor
  · rintro ⟨hm, hc, hb⟩
    obtain ⟨a, rfl⟩ := List.length_eq_one_iff.mp (Option.some.inj (hc [])).symm
    exact ⟨hm, a, rfl, hb⟩
  · rintro ⟨hm, a, rfl, hb⟩
    exact ⟨hm, fun _ => rfl, hb⟩

theorem row2_reads {k : Word → Word → Word → Option Instr} :
    (row2 m p k).Reads f h ops i ↔ h &&& m = p ∧ ∃ a b, ops = [a, b] ∧ k h a b = some i := by
  constructor
  · rintro ⟨hm, hc, hb⟩
    obtain ⟨a, b, rfl⟩ := List.length_eq_two.mp (Option.some.inj (hc [])).symm
    exact ⟨hm, a, b, rfl, hb⟩
  · rintro ⟨hm, a, b, rfl, hb⟩
    exact ⟨hm, fun _ => rfl, hb⟩

theorem row3_reads {k : Word → Word → Word → Word → Option Instr} :
    (row3 m p k).Reads f h ops i ↔ h &&& m = p ∧ ∃ a b c, ops = [a, b, c] ∧ k h a b c = some i := by
  constructor
  · rintro ⟨hm, hc, hb⟩
    obtain ⟨a, b, c, rfl⟩ := List.length_eq_three.mp (Option.some.inj (hc [])).symm
    exact ⟨hm, a, b, c, rfl, hb⟩
  · rintro ⟨hm, a, b, c, rfl, hb⟩
    exact ⟨hm, fun _ => rfl, hb⟩

theorem rowR_reads {k : Word → FReal → Instr} :
    (rowR m p k).Reads f h ops i ↔
      h &&& m = p ∧ ∃ r, f.fits r = true ∧ ops = realWords f r ∧ i = k h r := by
  constructor
  · rintro ⟨hm, -, hb⟩
    obtain ⟨r, hr, rfl⟩ := Option.map_eq_some_iff.mp hb
    obtain ⟨hfits, rfl⟩ := real?_eq_some.mp hr
    exact ⟨hm, r, hfits, rfl, rfl⟩
  · rintro ⟨hm, r, hfits, rfl, rfl⟩
    exact ⟨hm, fun _ => congrArg some (Laws.length_realWords f r).symm,
      congrArg (Option.map (k h)) (real?_eq_some.mpr ⟨hfits, rfl⟩)⟩

theorem blen_ofNat {n : Nat} (hn : n < 2 ^ 24) : blen (BitVec.ofNat 32 n) = n := by
  simp [blen]
  omega

/-- A word with nothing above its byte count. -/
theorem eq_ofNat_blen {w : Word} (h : w.extractLsb' 24 8 = 0) : blen w < 2 ^ 24 ∧ w = BitVec.ofNat 32 (blen w) := by
  have hhi : w.toNat / 2 ^ 24 % 2 ^ 8 = 0 := by simpa [Nat.shiftRight_eq_div_pow] using congrArg BitVec.toNat h
  have hlt : w.toNat < 2 ^ 24 := by omega
  have hlen : blen w = w.toNat := by simpa [blen] using Nat.mod_eq_of_lt hlt
  rw [hlen, BitVec.ofNat_toNat]
  exact ⟨hlt, by simp⟩

theorem extract_ofNat {n : Nat} (hn : n < 2 ^ 24) : (BitVec.ofNat 32 n).extractLsb' 24 8 = 0 := by
  apply BitVec.eq_of_toNat_eq
  simp [Nat.shiftRight_eq_div_pow]
  omega

theorem rowB_reads {k : Word → Word → List Byte → Instr} :
    (rowB m p k).Reads f h ops i ↔
      h &&& m = p ∧ ∃ xy bs, blitFits bs = true ∧ ops = xy :: BitVec.ofNat 32 bs.length :: packBytes bs ∧
        i = k h xy bs := by
  constructor
  · rintro ⟨hm, hc, hb⟩
    have hcount := hc []
    rw [List.append_nil] at hcount
    match ops with
    | [] | [_] => cases hcount
    | xy :: bl :: pay =>
      have hcount' : 2 + (blen bl + 3) / 4 = pay.length + 1 + 1 := Option.some.inj hcount
      have hpay : pay.length = (blen bl + 3) / 4 := by omega
      simp only [rowB] at hb
      split at hb
      · next hz =>
        obtain ⟨bs, hbs, rfl⟩ := Option.map_eq_some_iff.mp hb
        obtain ⟨hlen, rfl⟩ := (payload?_eq_some hpay).mp hbs
        obtain ⟨hlt, heq⟩ := eq_ofNat_blen hz
        rw [← hlen] at hlt heq
        exact ⟨hm, xy, bs, decide_eq_true hlt, by rw [← heq], rfl⟩
      · cases hb
  · rintro ⟨hm, xy, bs, hfits, rfl, rfl⟩
    have hlt : bs.length < 2 ^ 24 := of_decide_eq_true hfits
    have hlen := blen_ofNat hlt
    refine ⟨hm, fun rest => ?_, ?_⟩
    · simp only [operandCount, rowB, List.cons_append, hlen, List.length_cons, Laws.length_packBytes]
      congr 1
      omega
    · have hread := (payload?_eq_some (Laws.length_packBytes bs)).mpr ⟨rfl, rfl⟩
      simp [rowB, extract_ofNat hlt, hlen, hread]

end Rows

/-! ### Each row reads only encodings (R110, R113) -/

/-- Whatever the row reads is well formed, and the words are its encoding. -/
def Row.ReadsEncodings (r : Row) : Prop :=
  ∀ f h ops i, r.Reads f h ops i → i.wf f = true ∧ encode f i = h :: ops

section Encodings

variable {m p : Word}

theorem row0_readsEncodings {k : Word → Instr}
    (hk : ∀ f h, h &&& m = p → (k h).wf f = true ∧ encode f (k h) = [h]) : (row0 m p k).ReadsEncodings := by
  intro f h ops i hr
  obtain ⟨hm, rfl, rfl⟩ := row0_reads.mp hr
  exact hk f h hm

theorem row1_readsEncodings {k : Word → Word → Option Instr}
    (hk : ∀ f h a i, h &&& m = p → k h a = some i → i.wf f = true ∧ encode f i = [h, a]) :
    (row1 m p k).ReadsEncodings := by
  intro f h ops i hr
  obtain ⟨hm, a, rfl, hb⟩ := row1_reads.mp hr
  exact hk f h a i hm hb

theorem row2_readsEncodings {k : Word → Word → Word → Option Instr}
    (hk : ∀ f h a b i, h &&& m = p → k h a b = some i → i.wf f = true ∧ encode f i = [h, a, b]) :
    (row2 m p k).ReadsEncodings := by
  intro f h ops i hr
  obtain ⟨hm, a, b, rfl, hb⟩ := row2_reads.mp hr
  exact hk f h a b i hm hb

theorem row3_readsEncodings {k : Word → Word → Word → Word → Option Instr}
    (hk : ∀ f h a b c i, h &&& m = p → k h a b c = some i → i.wf f = true ∧ encode f i = [h, a, b, c]) :
    (row3 m p k).ReadsEncodings := by
  intro f h ops i hr
  obtain ⟨hm, a, b, c, rfl, hb⟩ := row3_reads.mp hr
  exact hk f h a b c i hm hb

/-- A row with a `UNIT` and a real. -/
theorem rowR_readsEncodings (o : BitVec 8) {k : Word → FReal → Instr}
    (hk : ∀ f h r, f.fits r = true →
      (k h r).wf f = true ∧ encode f (k h r) = header o (hdrUnit h) 0 :: realWords f r) :
    (rowR 0xFF00FFFF (header o 0 0) k).ReadsEncodings := by
  intro f h ops i hr
  obtain ⟨hm, r, hfits, rfl, rfl⟩ := rowR_reads.mp hr
  obtain ⟨hwf, he⟩ := hk f h r hfits
  exact ⟨hwf, by rw [he, ← (mask_unit_iff o).mp hm]⟩

/-- A row of one header word, of any shape. -/
theorem row0_readsShape {k : Word → Instr} {shape : Word → Word}
    (hm : ∀ {h}, h &&& m = p ↔ h = shape h) (hk : ∀ f h, (k h).wf f = true ∧ encode f (k h) = [shape h]) :
    (row0 m p k).ReadsEncodings :=
  row0_readsEncodings fun f h hh => ⟨(hk f h).1, by rw [(hk f h).2, ← hm.mp hh]⟩

end Encodings

theorem vcmdRows_readEncodings : ∀ r ∈ vcmdRows, r.ReadsEncodings := by
  simp only [vcmdRows, List.forall_mem_cons]
  refine ⟨row1_readsEncodings ?_, row0_readsShape (mask_idx_iff 0x02) fun _ _ => ⟨rfl, rfl⟩,
    row2_readsEncodings ?_, row2_readsEncodings ?_, row2_readsEncodings ?_, ?_,
    row0_readsShape (mask_none_iff 0x07) fun _ _ => ⟨rfl, rfl⟩, row1_readsEncodings ?_,
    row0_readsShape (mask_idx_iff 0x11) fun _ _ => ⟨rfl, rfl⟩, row3_readsEncodings ?_, row1_readsEncodings ?_,
    row0_readsShape (mask_none_iff 0x14) fun _ _ => ⟨rfl, rfl⟩,
    row0_readsShape (mask_none_iff 0x15) fun _ _ => ⟨rfl, rfl⟩,
    row0_readsShape (mask_a_iff 0x20) fun _ _ => ⟨rfl, rfl⟩,
    row0_readsShape (mask_none_iff 0x21) fun _ _ => ⟨rfl, rfl⟩, List.forall_mem_nil _⟩
  case refine_1 =>
    rintro f h a i hm ⟨⟩
    exact ⟨rfl, by rw [encode, ← (mask_idx_iff 0x01).mp hm, pairWord_halves]⟩
  case refine_2 =>
    intro f h a b i hm hb
    obtain ⟨n, hn, rfl⟩ := Option.map_eq_some_iff.mp hb
    exact ⟨rfl, by rw [encode, ← (mask_idx_iff 0x03).mp hm, pairWord_halves, half?_eq_some.mp hn]⟩
  case refine_3 =>
    intro f h a b i hm hb
    obtain ⟨n, hn, rfl⟩ := Option.map_eq_some_iff.mp hb
    exact ⟨rfl, by rw [encode, ← (mask_idx_iff 0x04).mp hm, pairWord_halves, half?_eq_some.mp hn]⟩
  case refine_4 =>
    rintro f h a b i hm ⟨⟩
    exact ⟨rfl, by rw [encode, ← (mask_idx_iff 0x05).mp hm, pairWord_halves, pairWord_halves]⟩
  case refine_5 =>
    intro f h ops i hr
    obtain ⟨hm, xy, bs, hfits, rfl, rfl⟩ := rowB_reads.mp hr
    exact ⟨hfits, by rw [encode, ← (mask_a_iff 0x06).mp hm, pairWord_halves]⟩
  case refine_6 =>
    intro f h a i hm hb
    obtain ⟨c, hc, rfl⟩ := Option.map_eq_some_iff.mp hb
    exact ⟨rfl, by rw [encode, ← (mask_idx_iff 0x10).mp hm, rgb?_eq_some.mp hc]⟩
  case refine_7 =>
    intro f h a b c i hm hb
    split at hb <;> cases hb
    next hn h0 h1 =>
    exact ⟨rfl, by
      rw [encode, ← (mask_idx_iff 0x12).mp hm, half?_eq_some.mp hn, rgb?_eq_some.mp h0, rgb?_eq_some.mp h1]⟩
  case refine_8 =>
    intro f h a i hm hb
    obtain ⟨n, hn, rfl⟩ := Option.map_eq_some_iff.mp hb
    exact ⟨rfl, by rw [encode, ← (mask_rotpal_iff 0x13).mp hm, half?_eq_some.mp hn]⟩

theorem acmdRows_readEncodings : ∀ r ∈ acmdRows, r.ReadsEncodings := by
  have unit (o : BitVec 8) {k : Word → Instr}
      (hk : ∀ f h, (k h).wf f = true ∧ encode f (k h) = [header o (hdrUnit h) 0]) :
      (row0 0xFF00FFFF (header o 0 0) k).ReadsEncodings := row0_readsShape (mask_unit_iff o) hk
  have sample (o : BitVec 8) {k : BitVec 16 → Sample → Instr}
      (hk : ∀ f a x, (k a x).wf f = true ∧ encode f (k a x) = [header o 0 a, halfWord x]) :
      (row1 0xFFFF0000 (header o 0 0) fun h w => (half? w).map (k (hdrA h))).ReadsEncodings := by
    refine row1_readsEncodings fun f h w i hm hb => ?_
    obtain ⟨x, hx, rfl⟩ := Option.map_eq_some_iff.mp hb
    obtain ⟨hwf, he⟩ := hk f (hdrA h) x
    exact ⟨hwf, by rw [he, ← (mask_a_iff o).mp hm, ← half?_eq_some.mp hx]⟩
  simp only [acmdRows, List.forall_mem_cons]
  exact ⟨unit 0x40 fun _ _ => ⟨rfl, rfl⟩, unit 0x41 fun _ _ => ⟨rfl, rfl⟩,
    row0_readsShape (mask_unitA_iff 0x42) fun _ _ => ⟨rfl, rfl⟩,
    rowR_readsEncodings 0x43 fun _ _ _ h => ⟨h, rfl⟩, rowR_readsEncodings 0x44 fun _ _ _ h => ⟨h, rfl⟩,
    row0_readsShape (mask_tag3_iff 0x45) fun _ _ => ⟨rfl, rfl⟩,
    unit 0x50 fun _ _ => ⟨rfl, rfl⟩, unit 0x51 fun _ _ => ⟨rfl, rfl⟩,
    unit 0x52 fun _ _ => ⟨rfl, rfl⟩, unit 0x53 fun _ _ => ⟨rfl, rfl⟩,
    rowR_readsEncodings 0x54 fun _ _ _ h => ⟨h, rfl⟩, rowR_readsEncodings 0x55 fun _ _ _ h => ⟨h, rfl⟩,
    rowR_readsEncodings 0x56 fun _ _ _ h => ⟨h, rfl⟩, rowR_readsEncodings 0x57 fun _ _ _ h => ⟨h, rfl⟩,
    rowR_readsEncodings 0x60 fun _ _ _ h => ⟨h, rfl⟩, unit 0x61 fun _ _ => ⟨rfl, rfl⟩,
    row0_readsShape (mask_tag2_iff 0x62) fun _ _ => ⟨rfl, rfl⟩,
    rowR_readsEncodings 0x63 fun _ _ _ h => ⟨h, rfl⟩, rowR_readsEncodings 0x64 fun _ _ _ h => ⟨h, rfl⟩,
    unit 0x68 fun _ _ => ⟨rfl, rfl⟩, sample 0x70 fun _ _ _ => ⟨rfl, rfl⟩,
    row0_readsShape (mask_bit_iff 0x71) fun _ _ => ⟨rfl, rfl⟩, sample 0x72 fun _ _ _ => ⟨rfl, rfl⟩,
    row0_readsShape (mask_none_iff 0x73) fun _ _ => ⟨rfl, rfl⟩, List.forall_mem_nil _⟩

/-! ### Each instruction of a port is read by a row of its table (R110, R111) -/

/-- A row of `rows` reads instruction `i` from its encoding. -/
def ReadBy (rows : List Row) (f : Fmt) (i : Instr) : Prop :=
  ∃ h ops r, encode f i = h :: ops ∧ findRow rows h = some r ∧ r.Reads f h ops i

section ReadBy

variable {rows : List Row} {o : BitVec 8} {u : Byte} {a : BitVec 16} {f : Fmt} {i : Instr} {m p : Word}

/-- The row of an opcode does not depend on the header's other fields. -/
theorem findRow_header (rows : List Row) (o : BitVec 8) (u : Byte) (a : BitVec 16) :
    findRow rows (header o u a) = rows.find? fun r => r.opc == o := by
  simp only [findRow, hdrOpc_header]

theorem ReadBy.of_row {r : Row} {ops : List Word} (he : encode f i = header o u a :: ops)
    (hr : (rows.find? fun r => r.opc == o) = some r) (hi : r.Reads f (header o u a) ops i) : ReadBy rows f i :=
  ⟨_, _, r, he, (findRow_header rows o u a).trans hr, hi⟩

theorem readBy_unit {k : Word → Instr} {k' : Byte → Instr}
    (hr : (rows.find? fun r => r.opc == o) = some (row0 0xFF00FFFF (header o 0 0) k)) (hk : ∀ h, k h = k' (hdrUnit h))
    (he : encode f (k' u) = [header o u 0]) : ReadBy rows f (k' u) :=
  .of_row he hr (row0_reads.mpr ⟨(mask_unit_iff o).mpr (by rw [hdrUnit_header]), rfl, by rw [hk, hdrUnit_header]⟩)

/-- An instruction with a `UNIT` and a real. -/
theorem readBy_real {r : FReal} {k : Word → FReal → Instr} {k' : Byte → FReal → Instr}
    (hr : (rows.find? fun r => r.opc == o) = some (rowR 0xFF00FFFF (header o 0 0) k))
    (hk : ∀ h r, k h r = k' (hdrUnit h) r) (he : encode f (k' u r) = header o u 0 :: realWords f r)
    (hfits : f.fits r = true) : ReadBy rows f (k' u r) :=
  .of_row he hr (rowR_reads.mpr
    ⟨(mask_unit_iff o).mpr (by rw [hdrUnit_header]), r, hfits, rfl, by rw [hk, hdrUnit_header]⟩)

/-- An instruction of the header `op 0 0`. -/
theorem readBy_none {k : Word → Instr}
    (hr : (rows.find? fun r => r.opc == o) = some (row0 0xFFFFFFFF (header o 0 0) k))
    (hk : k (header o 0 0) = i) (he : encode f i = [header o 0 0]) : ReadBy rows f i :=
  .of_row he hr (row0_reads.mpr ⟨(mask_none_iff o).mpr rfl, rfl, hk.symm⟩)

/-- An instruction with an index in `A[7:0]`. -/
theorem readBy_idx {b : Byte} {k : Word → Instr} {k' : Byte → Instr}
    (hr : (rows.find? fun r => r.opc == o) = some (row0 0xFFFFFF00 (header o 0 0) k)) (hk : ∀ h, k h = k' (hdrIdx h))
    (he : encode f (k' b) = [header o 0 (shortA b)]) : ReadBy rows f (k' b) :=
  .of_row he hr (row0_reads.mpr ⟨(mask_idx_iff o).mpr (by rw [hdrIdx_shortA]), rfl, by rw [hk, hdrIdx_shortA]⟩)

end ReadBy

theorem acmd_readBy {f : Fmt} {i : Instr} (hp : i.port = .acmd) (hwf : i.wf f = true) : ReadBy acmdRows f i := by
  cases i with
  | oscnext | oscrst | envnext | envon | envoff | envrst | fltrst | voice => exact readBy_unit rfl (fun _ => rfl) rfl
  | oscfreq | oscdet | envatk | envdec | envsus | envrel | fltproc | fltcut | fltres =>
    exact readBy_real rfl (fun _ _ => rfl) rfl hwf
  | oscnote =>
    exact .of_row rfl rfl (row0_reads.mpr
      ⟨(mask_unitA_iff 0x42).mpr (by rw [hdrUnit_header, hdrA_header]), rfl, by rw [hdrUnit_header, hdrA_header]⟩)
  | oscwave =>
    exact .of_row rfl rfl (row0_reads.mpr
      ⟨(mask_tag3_iff 0x45).mpr (by rw [hdrUnit_header, tag3_header]), rfl, by rw [hdrUnit_header, tag3_header]⟩)
  | flttype =>
    exact .of_row rfl rfl (row0_reads.mpr
      ⟨(mask_tag2_iff 0x62).mpr (by rw [hdrUnit_header, tag2_header]), rfl, by rw [hdrUnit_header, tag2_header]⟩)
  | spanwr slot x =>
    exact .of_row rfl rfl (row1_reads.mpr ⟨(mask_a_iff 0x70).mpr (by rw [hdrA_header]), _, rfl,
      by rw [half?_eq_some.mpr rfl, hdrA_header, Option.map_some]⟩)
  | abufwr slot x =>
    exact .of_row rfl rfl (row1_reads.mpr ⟨(mask_a_iff 0x72).mpr (by rw [hdrA_header]), _, rfl,
      by rw [half?_eq_some.mpr rfl, hdrA_header, Option.map_some]⟩)
  | fillret =>
    exact .of_row rfl rfl (row0_reads.mpr ⟨(mask_bit_iff 0x71).mpr (by rw [flag_header]), rfl, by rw [flag_header]⟩)
  | abufrdy => exact readBy_none rfl rfl rfl
  | _ => cases hp

theorem vcmd_readBy {f : Fmt} {i : Instr} (hp : i.port = .vcmd) (hwf : i.wf f = true) : ReadBy vcmdRows f i := by
  cases i with
  | flip | commit | pullf2b | hookret => exact readBy_none rfl rfl rfl
  | clear | palrd => exact readBy_idx rfl (fun _ => rfl) rfl
  | run =>
    exact .of_row rfl rfl (row0_reads.mpr ⟨(mask_a_iff 0x20).mpr (by rw [hdrA_header]), rfl, by rw [hdrA_header]⟩)
  | putpixel =>
    exact .of_row rfl rfl (row1_reads.mpr ⟨(mask_idx_iff 0x01).mpr (by rw [hdrIdx_shortA]), _, rfl,
      by rw [hdrIdx_shortA, lowHalf_pairWord, highHalf_pairWord]⟩)
  | hline =>
    exact .of_row rfl rfl (row2_reads.mpr ⟨(mask_idx_iff 0x03).mpr (by rw [hdrIdx_shortA]), _, _, rfl,
      by rw [half?_eq_some.mpr rfl, hdrIdx_shortA, lowHalf_pairWord, highHalf_pairWord, Option.map_some]⟩)
  | vline =>
    exact .of_row rfl rfl (row2_reads.mpr ⟨(mask_idx_iff 0x04).mpr (by rw [hdrIdx_shortA]), _, _, rfl,
      by rw [half?_eq_some.mpr rfl, hdrIdx_shortA, lowHalf_pairWord, highHalf_pairWord, Option.map_some]⟩)
  | fillrect =>
    exact .of_row rfl rfl (row2_reads.mpr ⟨(mask_idx_iff 0x05).mpr (by rw [hdrIdx_shortA]), _, _, rfl,
      by rw [hdrIdx_shortA]; simp only [lowHalf_pairWord, highHalf_pairWord]⟩)
  | blit =>
    exact .of_row rfl rfl (rowB_reads.mpr ⟨(mask_a_iff 0x06).mpr (by rw [hdrA_header]), _, _, hwf, rfl,
      by rw [hdrA_header, lowHalf_pairWord, highHalf_pairWord]⟩)
  | palwr =>
    exact .of_row rfl rfl (row1_reads.mpr ⟨(mask_idx_iff 0x10).mpr (by rw [hdrIdx_shortA]), _, rfl,
      by rw [rgb?_eq_some.mpr rfl, hdrIdx_shortA, Option.map_some]⟩)
  | setgrad =>
    exact .of_row rfl rfl (row3_reads.mpr ⟨(mask_idx_iff 0x12).mpr (by rw [hdrIdx_shortA]), _, _, _, rfl,
      by rw [half?_eq_some.mpr rfl, rgb?_eq_some.mpr rfl, rgb?_eq_some.mpr rfl, hdrIdx_shortA]⟩)
  | rotpal =>
    exact .of_row rfl rfl (row1_reads.mpr ⟨(mask_rotpal_iff 0x13).mpr (by rw [direction_header, hdrIdx_rotpal]), _, rfl,
      by rw [half?_eq_some.mpr rfl, direction_header, hdrIdx_rotpal, Option.map_some]⟩)
  | _ => cases hp

/-! ### What a port reads (R101, R113) -/

section Ports

variable {rows : List Row} {f : Fmt} {i : Instr} {r : Row} {h : Word} {ws ops rest : List Word}

theorem Row.Reads.decode (hr : r.Reads f h ops i) (rest : List Word) : r.decode f h ops rest = .packet i rest := by
  simp [Row.decode, hr.header, hr.built]

/-- Words with a row's number of operand words are decoded by it, taken whole. -/
theorem decodePort_row (hr : findRow rows h = some r)
    (hc : ∀ rest, operandCount f r.format (ops ++ rest) = some ops.length) (rest : List Word) :
    decodePort rows f (h :: ops ++ rest) = r.decode f h ops rest := by
  simp [decodePort, hr, hc]

theorem ReadBy.decodePort (hi : ReadBy rows f i) (rest : List Word) :
    decodePort rows f (encode f i ++ rest) = .packet i rest := by
  obtain ⟨h, ops, r, he, hr, hreads⟩ := hi
  rw [he, decodePort_row hr hreads.count, hreads.decode]

/-- The number of operand words is told by those words. -/
theorem operandCount_take {fm : Format} {k : Nat} (hc : operandCount f fm ws = some k) (hk : k ≤ ws.length)
    (rest : List Word) : operandCount f fm (ws.take k ++ rest) = some (ws.take k).length := by
  rw [List.length_take_of_le hk, ← hc]
  cases fm with
  | fb =>
    match ws with
    | [] | [_] => cases hc
    | xy :: bl :: pay =>
      obtain rfl := Option.some.inj hc
      rw [Nat.add_comm 2]
      rfl
  | _ => rfl

/-- What a port reads as a packet is its instruction's encoding. -/
theorem decodePort_encoding (hrows : ∀ r ∈ rows, r.ReadsEncodings) (hd : decodePort rows f ws = .packet i rest) :
    i.wf f = true ∧ ws = encode f i ++ rest := by
  obtain ⟨h, tl, r, k, rfl, hr, hc, hk, hm, hb, rfl⟩ := Machine.decodePort_packet hd
  obtain ⟨hwf, he⟩ := hrows r (Machine.findRow_mem hr) f h (tl.take k) i ⟨hm, operandCount_take hc hk, hb⟩
  exact ⟨hwf, by rw [he, List.cons_append, List.take_append_drop]⟩

/-- Words of as many operand words, with the same byte count where they have one, are taken whole too. -/
theorem operandCount_congr {fm : Format} {ops' : List Word} (hlen : ops'.length = ops.length)
    (hb : fm = .fb → blen (ops'.getD 1 0) = blen (ops.getD 1 0))
    (hc : ∀ rest, operandCount f fm (ops ++ rest) = some ops.length) (rest : List Word) :
    operandCount f fm (ops' ++ rest) = some ops'.length := by
  rw [hlen, ← hc rest]
  cases fm with
  | fb =>
    match ops, ops' with
    | [], _ | [_], _ => cases hc []
    | _ :: _ :: _, [] | _ :: _ :: _, [_] => simp at hlen
    | _ :: bl :: _, _ :: bl' :: _ =>
      have hbl : blen bl' = blen bl := hb rfl
      simp only [operandCount, List.cons_append, hbl]
  | _ => rfl

/-- A whole packet of a row that is no instruction's encoding is illegal. -/
theorem decodePort_illegal_of_row (hrows : ∀ r ∈ rows, r.ReadsEncodings) (hr : findRow rows h = some r)
    (hc : ∀ rest, operandCount f r.format (ops ++ rest) = some ops.length)
    (hno : ∀ j : Instr, j.wf f = true → encode f j ≠ h :: ops) (rest : List Word) :
    ∃ why, decodePort rows f (h :: ops ++ rest) = .illegal why rest := by
  rw [decodePort_row hr hc]
  unfold Row.decode
  split
  · next hm =>
    split
    · next j hj =>
      obtain ⟨hwf, he⟩ := hrows r (Machine.findRow_mem hr) f h ops j ⟨hm, hc, hj⟩
      exact absurd he (hno j hwf)
    · exact ⟨_, rfl⟩
  · exact ⟨_, rfl⟩

/-- Words with the opcode, the length and the byte count of a packet of the port, that encode nothing. -/
theorem decodePort_illegal_of_shape (hrows : ∀ r ∈ rows, r.ReadsEncodings)
    (hblit : ∀ r ∈ rows, r.format = .fb → r.opc = 0x06) (hi : ReadBy rows f i)
    (hlen : ws.length = (encode f i).length) (hopc : hdrOpc (ws.headD 0) = hdrOpc ((encode f i).headD 0))
    (hb : hdrOpc (ws.headD 0) = 0x06 → blen (ws.getD 2 0) = blen ((encode f i).getD 2 0))
    (hno : ∀ j : Instr, j.wf f = true → encode f j ≠ ws) (rest : List Word) :
    ∃ why, decodePort rows f (ws ++ rest) = .illegal why rest := by
  obtain ⟨h', ops', r, he, hr, hreads⟩ := hi
  rw [he] at hlen hopc hb
  match ws with
  | [] => simp at hlen
  | h :: ops =>
    have hfind : findRow rows h = some r := by rw [← hr]; simp only [findRow]; rw [show hdrOpc h = hdrOpc h' from hopc]
    have hopc' : r.opc = hdrOpc h := by simpa using List.find?_some hfind
    refine decodePort_illegal_of_row hrows hfind ?_ hno rest
    refine operandCount_congr (by simpa using hlen) (fun hfb => ?_) hreads.count
    exact hb (hopc'.symm.trans (hblit r (Machine.findRow_mem hfind) hfb))

end Ports

theorem vcmdRows_blit : ∀ r ∈ vcmdRows, r.format = .fb → r.opc = 0x06 := by decide

theorem acmdRows_blit : ∀ r ∈ acmdRows, r.format = .fb → r.opc = 0x06 := by decide

end Sys2Proof

namespace Sys2Proof.Proofs

open Sys2Proof Sys2Proof.Machine

/-- Settles O1: each is the decoder's value on the written words. -/
theorem sampleWordsDecode : Obligations.SampleWordsDecode := by
  unfold Obligations.SampleWordsDecode
  decide +kernel

/-- Settles O2: a row of the port's table reads each instruction's encoding. -/
theorem packetsRoundTrip : Obligations.PacketsRoundTrip := by
  intro f i rest hwf
  exact ⟨fun hp => (vcmd_readBy hp hwf).decodePort rest, fun hp => (acmd_readBy hp hwf).decodePort rest⟩

/-- Settles O3: each row reads only encodings, and what has the shape of a row's packet is taken whole. -/
theorem packetsHaveOneEncoding : Obligations.PacketsHaveOneEncoding := by
  intro f ws i rest
  refine ⟨fun hd => ⟨decodeVideo_port hd, decodePort_encoding vcmdRows_readEncodings hd⟩,
    fun hd => ⟨decodeAudio_port hd, decodePort_encoding acmdRows_readEncodings hd⟩,
    fun hwf hlen hopc hb hno => ⟨fun hp => ?_, fun hp => ?_⟩⟩
  · exact decodePort_illegal_of_shape vcmdRows_readEncodings vcmdRows_blit (vcmd_readBy hp hwf) hlen hopc hb hno rest
  · exact decodePort_illegal_of_shape acmdRows_readEncodings acmdRows_blit (acmd_readBy hp hwf) hlen hopc hb hno rest

end Sys2Proof.Proofs
end

section
/-! PROOFS of the statement on the loops of plots (`spec/40_framebuffer.md` R133 to R138). A loop of plots leaves at
each element the value of a pixel that was plotted there; where a shape gives every plotted pixel its value, and every
pixel of the shape is plotted, that is what drawing the shape leaves. -/

namespace Sys2Proof.Machine

/-! ### What a loop of plots leaves (R138) -/

/-- Pixel `k` of the loop is drawn at element `o`. -/
def PlotsAt (c : Config) (p : Nat → Int × Int × Byte) (k o : Nat) : Prop :=
  inFrame c (p k).1 (p k).2.1 = true ∧ o = pixelIndex c (p k).1 (p k).2.1

section PlotLoop

variable {c : Config} {v : VideoState} {p : Nat → Int × Int × Byte} {n o : Nat}

theorem VideoState.setFbBack_fbBack (v : VideoState) : v.setFbBack v.fbBack = v := by
  unfold setFbBack fbBack
  split <;> rfl

theorem VideoState.setFbBack_setFbBack (v : VideoState) (m m' : List Host.Cell) :
    (v.setFbBack m).setFbBack m' = v.setFbBack m' := by
  unfold setFbBack
  cases v.fbsel <;> simp

theorem VideoState.plot_eq_setFbBack (c : Config) (v : VideoState) (x y : Int) (idx : Byte) :
    ∃ m, v.plot c x y idx = v.setFbBack m ∧ (memWf 0 v.fbBack = true → memWf 0 m = true) := by
  unfold plot
  split
  · exact ⟨_, rfl, memWf_write _ _⟩
  · exact ⟨v.fbBack, v.setFbBack_fbBack.symm, id⟩

/-- A loop of plots replaces the back array, by a canonical one where it was canonical. -/
theorem VideoState.plotLoop_eq_setFbBack (c : Config) (v : VideoState) (p : Nat → Int × Int × Byte) (n : Nat) :
    ∃ m, v.plotLoop c p n = v.setFbBack m ∧ (memWf 0 v.fbBack = true → memWf 0 m = true) := by
  induction n with
  | zero => exact ⟨v.fbBack, v.setFbBack_fbBack.symm, id⟩
  | succ n ih =>
    obtain ⟨m, hm, hwf⟩ := ih
    obtain ⟨m', hm', hwf'⟩ := (v.setFbBack m).plot_eq_setFbBack c (p n).1 (p n).2.1 (p n).2.2
    rw [fbBack_setFbBack] at hwf'
    exact ⟨m', by rw [plotLoop, hm, hm', setFbBack_setFbBack], hwf' ∘ hwf⟩

theorem VideoState.pixel_plot_hit (h : PlotsAt c p n o) :
    (v.plot c (p n).1 (p n).2.1 (p n).2.2).pixel o = (p n).2.2 := by
  rw [plot, if_pos h.1, pixel_setPixel, if_pos h.2]

theorem VideoState.pixel_plot_miss (h : ¬PlotsAt c p n o) :
    (v.plot c (p n).1 (p n).2.1 (p n).2.2).pixel o = v.pixel o := by
  unfold plot
  split
  · next hin => rw [pixel_setPixel, if_neg fun ho => h ⟨hin, ho⟩]
  · rfl

theorem VideoState.pixel_plotLoop_miss (h : ∀ k < n, ¬PlotsAt c p k o) :
    (v.plotLoop c p n).pixel o = v.pixel o := by
  induction n with
  | zero => rfl
  | succ n ih => exact (pixel_plot_miss (h n (Nat.lt_succ_self n))).trans (ih fun k hk => h k (by omega))

/-- Where every pixel drawn at the element has one value, and one is drawn, the element has that value. -/
theorem VideoState.pixel_plotLoop_hit {x : Byte} (hx : ∀ k < n, PlotsAt c p k o → (p k).2.2 = x)
    (h : ∃ k < n, PlotsAt c p k o) : (v.plotLoop c p n).pixel o = x := by
  induction n with
  | zero =>
    obtain ⟨k, hk, -⟩ := h
    exact absurd hk k.not_lt_zero
  | succ n ih =>
    by_cases hn : PlotsAt c p n o
    · exact (pixel_plot_hit hn).trans (hx n (Nat.lt_succ_self n) hn)
    · obtain ⟨k, hk, hp⟩ := h
      have hkn : k ≠ n := fun he => hn (he ▸ hp)
      exact (pixel_plot_miss hn).trans (ih (fun k hk => hx k (by omega)) ⟨k, by omega, hp⟩)

/-! ### A loop and its shape (R133 to R136) -/

/-- The pixel of the framebuffer that is drawn at an element is the element's column and row. -/
theorem pixelIndex_inFrame {x y : Int} (h : inFrame c x y = true) :
    pixelX c (pixelIndex c x y) = x ∧ pixelY c (pixelIndex c x y) = y := by
  obtain ⟨hx, hxw, hy, -⟩ := inFrame_iff.mp h
  obtain ⟨px, rfl⟩ := Int.eq_ofNat_of_zero_le hx
  obtain ⟨py, rfl⟩ := Int.eq_ofNat_of_zero_le hy
  have hpx : px < c.w := by omega
  have ho : pixelIndex c px py = py * c.w + px := by unfold pixelIndex; omega
  rw [ho, pixelX_rowMajor hpx, pixelY_rowMajor hpx]
  exact ⟨rfl, rfl⟩

/-- An element of the framebuffer is drawn by the pixel at its column and row. -/
theorem inFrame_of_lt {o : Nat} (ho : o < c.w * c.h) :
    inFrame c (pixelX c o) (pixelY c o) = true ∧ o = pixelIndex c (pixelX c o) (pixelY c o) := by
  have hw : 0 < c.w := Nat.pos_of_mul_pos_right (Nat.zero_lt_of_lt ho)
  have hx : o % c.w < c.w := Nat.mod_lt o hw
  have hy : o / c.w < c.h := Nat.div_lt_of_lt_mul ho
  have hsplit : o / c.w * c.w + o % c.w = o := Nat.div_add_mod' o c.w
  have hx0 : 0 ≤ pixelX c o := Int.natCast_nonneg _
  have hy0 : 0 ≤ pixelY c o := Int.natCast_nonneg _
  refine ⟨inFrame_iff.mpr ⟨hx0, Int.ofNat_lt.mpr hx, hy0, Int.ofNat_lt.mpr hy⟩, ?_⟩
  rw [eq_pixelIndex_iff hx0 hy0]
  change (o : Int) = ((o / c.w : Nat) : Int) * c.w + ((o % c.w : Nat) : Int)
  exact_mod_cast hsplit.symm

/-- Drawing a shape is the loop that plots its pixels, each with the shape's value. -/
theorem VideoState.drawShape_eq_plotLoop {shape : Int → Int → Option Byte} (hwf : memWf 0 v.fbBack = true)
    (hvalue : ∀ k < n, shape (p k).1 (p k).2.1 = some (p k).2.2)
    (hcover : ∀ x y idx, shape x y = some idx → ∃ k < n, (p k).1 = x ∧ (p k).2.1 = y) :
    v.drawShape c shape = v.plotLoop c p n := by
  have hpixels (o : Nat) : (v.drawShape c shape).pixel o = (v.plotLoop c p n).pixel o := by
    by_cases hp : ∃ k < n, PlotsAt c p k o
    · obtain ⟨k, hk, hin, rfl⟩ := hp
      obtain ⟨hx, hy⟩ := pixelIndex_inFrame hin
      rw [pixel_drawShape, if_pos (pixelIndex_lt hin), hx, hy, hvalue k hk]
      refine (pixel_plotLoop_hit (fun j hj hp => ?_) ⟨k, hk, hin, rfl⟩).symm
      obtain ⟨hx', hy'⟩ := pixelIndex_inFrame hp.1
      rw [← hp.2] at hx' hy'
      have hj := hvalue j hj
      rw [← hx', ← hy', hx, hy, hvalue k hk] at hj
      exact (Option.some.inj hj).symm
    · rw [pixel_plotLoop_miss fun k hk hk' => hp ⟨k, hk, hk'⟩, pixel_drawShape]
      split
      · next ho =>
        cases hs : shape (pixelX c o) (pixelY c o) with
        | none => rfl
        | some idx =>
          obtain ⟨k, hk, hx, hy⟩ := hcover _ _ _ hs
          obtain ⟨hin, ho'⟩ := inFrame_of_lt ho
          rw [← hx, ← hy] at hin ho'
          exact absurd ⟨k, hk, hin, ho'⟩ hp
      · rfl
  obtain ⟨m, hm, hmwf⟩ := v.plotLoop_eq_setFbBack c p n
  rw [hm] at hpixels ⊢
  refine congrArg v.setFbBack (memory_ext (memWf_paint _ _ hwf) (hmwf hwf) fun o => ?_)
  simpa [pixel, drawShape] using hpixels o

end PlotLoop

/-- The column and the row of an offset of a rectangle of `w` columns and `h` rows. -/
theorem rowMajor_bounds {k w h : Nat} (hk : k < h * w) : k % w < w ∧ k / w < h :=
  ⟨Nat.mod_lt k (Nat.pos_of_mul_pos_left (Nat.zero_lt_of_lt hk)), Nat.div_lt_of_lt_mul (Nat.mul_comm h w ▸ hk)⟩

/-- The offsets of a rectangle of `w` columns and `h` rows, row by row. -/
theorem exists_rowMajor_offset {x y px py : Int} {w h : Nat} (hx : x ≤ px) (hxw : px < x + w) (hy : y ≤ py)
    (hyh : py < y + h) :
    ∃ k < h * w, x + (k % w : Nat) = px ∧ y + (k / w : Nat) = py := by
  obtain ⟨a, rfl⟩ := Int.le.dest hx
  obtain ⟨b, rfl⟩ := Int.le.dest hy
  have ha : a < w := by omega
  refine ⟨b * w + a, rowMajor_lt ha (by omega), ?_, ?_⟩
  · rw [Nat.mul_add_mod', Nat.mod_eq_of_lt ha]
  · rw [Nat.mul_comm b, Nat.mul_add_div (by omega), Nat.div_eq_of_lt ha, Nat.add_zero]

end Sys2Proof.Machine

namespace Sys2Proof.Proofs

open Sys2Proof Sys2Proof.Machine

/-- Settles O38: each command draws its shape, and its loop plots that shape's pixels. -/
theorem clippedDrawingIsThePlotLoop : Obligations.ClippedDrawingIsThePlotLoop := by
  intro s idx x y w h bytes hd hwf
  have draw {i : Instr} {shape : Int → Int → Option Byte} {p : Nat → Int × Int × Byte} {n : Nat}
      (he : exec i s = .next { s with video := s.video.drawShape s.cfg shape })
      (hvalue : ∀ k < n, shape (p k).1 (p k).2.1 = some (p k).2.2)
      (hcover : ∀ px py b, shape px py = some b → ∃ k < n, (p k).1 = px ∧ (p k).2.1 = py) :
      exec i s = .next { s with video := s.video.plotLoop s.cfg p n } := by
    rw [he, VideoState.drawShape_eq_plotLoop hwf hvalue hcover]
  refine ⟨?_, ?_, ?_, fun hw => ?_⟩
  · refine draw (exec_hline hd idx x y w) (fun k hk => ?_) (fun px py b hs => ?_)
    · exact ((hlineShape_fills _ _ _ _) _ _).1 ⟨rfl, by omega, by omega⟩
    · obtain ⟨hin, -⟩ := Option.ite_none_right_eq_some.mp hs
      rw [inSpan_iff] at hin
      exact ⟨(px - x.toInt).toNat, by omega, by dsimp only; omega, hin.1.symm⟩
  · refine draw (exec_vline hd idx x y h) (fun k hk => ?_) (fun px py b hs => ?_)
    · exact ((vlineShape_fills _ _ _ _) _ _).1 ⟨rfl, by dsimp only; omega, by dsimp only; omega⟩
    · obtain ⟨hin, -⟩ := Option.ite_none_right_eq_some.mp hs
      rw [inSpan_iff] at hin
      exact ⟨(py - y.toInt).toNat, by omega, hin.1.symm, by dsimp only; omega⟩
  · refine draw (exec_fillrect hd idx x y w h) (fun k hk => ?_) (fun px py b hs => ?_)
    · obtain ⟨hcol, hrow⟩ := rowMajor_bounds hk
      have hrow0 : (0 : Int) ≤ (k / w.toInt.toNat : Nat) := Int.natCast_nonneg _
      exact ((rectShape_fills _ _ _ _ _) _ _).1 (by dsimp only; omega)
    · obtain ⟨hin, -⟩ := Option.ite_none_right_eq_some.mp hs
      rw [inSpan_iff, inSpan_iff] at hin
      exact exists_rowMajor_offset (by omega) (by omega) (by omega) (by omega)
  · refine draw (exec_blit hd hw x y bytes) (fun k hk => ?_) (fun px py b hs => ?_)
    · obtain ⟨hcol, hrow⟩ := rowMajor_bounds hk
      have hlt : k < bytes.length := hk.trans_le (Nat.div_mul_le_self _ _)
      dsimp only
      rw [blitShape_source _ _ hrow hcol, Nat.div_add_mod', List.getElem?_eq_getElem hlt, List.getD_eq_getElem _ _ hlt]
    · obtain ⟨hin, -⟩ := Option.ite_none_right_eq_some.mp hs
      rw [inSpan_iff, inSpan_iff] at hin
      exact exists_rowMajor_offset (by omega) (by omega) (by omega) (by omega)

end Sys2Proof.Proofs
end

section
/-! PROOFS of the statements on the rotation's inverse and on the gradient (`spec/41_palette.md` R153 to R155,
`spec/00_scope.md` R15). `GRAD_ROUND` is read as a function of the value's whole part and fraction; what R15 asks of it,
and what a gradient's channel does, follow from there. -/

namespace Sys2Proof.Machine

/-! ### A rotation and the opposite one (R155) -/

theorem rotSource_lt {reverse : Bool} {count k : Nat} (hk : k < count) : rotSource reverse count k < count := by
  unfold rotSource
  split <;> split <;> omega

/-- The source of the source, the other way round, is the place itself. -/
theorem rotSource_rotSource_not {reverse : Bool} {count k : Nat} (hk : k < count) :
    rotSource reverse count (rotSource (!reverse) count k) = k := by
  cases reverse <;> simp only [rotSource, Bool.not_true, Bool.not_false, if_true, Bool.false_eq_true, if_false] <;>
    split <;> split <;> omega

theorem VideoState.setPalBack_setPalBack (v : VideoState) (m m' : List (Nat × RGB)) :
    (v.setPalBack m).setPalBack m' = v.setPalBack m' := by
  unfold setPalBack
  cases v.palsel <;> simp

theorem State.canPaint_paintPalette {s : State} (h : s.canPaint) (p : Nat → Option RGB) :
    State.canPaint { s with video := s.video.paintPalette p } := by
  simpa [State.canPaint] using h

/-! ### `GRAD_ROUND` on rationals (R15) -/

/-- The cut of the interval a value lies in. -/
def cutAt (g : GradRound) (n : ℤ) : Cut := g.getD n.toNat Cut.half

/-- The rounding of `GRAD_ROUND`, by the value's whole part and its fraction. -/
def roundByCut (g : GradRound) (q : ℚ) : ℤ :=
  if Int.fract q = 0 then ⌊q⌋
  else if Int.fract q * (cutAt g ⌊q⌋).den < (cutAt g ⌊q⌋).num then ⌊q⌋ else ⌊q⌋ + 1

/-- The integer remainder is the fraction in units of the denominator. -/
theorem emod_eq_fract_mul (num : ℤ) {den : ℕ} (hd : 0 < den) :
    ((num % den : ℤ) : ℚ) = Int.fract ((num : ℚ) / den) * den := by
  have hd' : (den : ℚ) ≠ 0 := by positivity
  have hsplit : ((den * (num / den) + num % den : ℤ) : ℚ) = num := by rw [Int.mul_ediv_add_emod]
  push_cast at hsplit
  rw [Int.fract, Rat.floor_intCast_div_natCast, sub_mul, div_mul_cancel₀ _ hd']
  linarith

theorem gradRound_eq_roundByCut (g : GradRound) (num : ℤ) {den : ℕ} (hd : 0 < den) :
    gradRound g num den = roundByCut g ((num : ℚ) / den) := by
  have hd' : (0 : ℚ) < den := by exact_mod_cast hd
  have hrest := emod_eq_fract_mul num hd
  have hzero : num % den = 0 ↔ Int.fract ((num : ℚ) / den) = 0 := by
    rw [← Int.cast_eq_zero (α := ℚ), hrest, mul_eq_zero, or_iff_left hd'.ne']
  have hcut (c : Cut) : num % den * c.den < c.num * den ↔ Int.fract ((num : ℚ) / den) * c.den < c.num := by
    rw [← Int.cast_lt (R := ℚ)]
    push_cast
    rw [hrest, mul_right_comm, mul_lt_mul_iff_left₀ hd']
  unfold gradRound roundByCut cutAt
  rw [Rat.floor_intCast_div_natCast]
  simp only [hzero, hcut]

theorem gradRoundAt_eq_roundByCut (g : GradRound) (q : ℚ) : gradRoundAt g q = roundByCut g q := by
  rw [gradRoundAt, gradRound_eq_roundByCut g q.num q.den_pos, Rat.num_div_den]

theorem gradRound_eq_gradRoundAt (g : GradRound) (num : ℤ) {den : ℕ} (hd : 0 < den) :
    gradRound g num den = gradRoundAt g ((num : ℚ) / den) := by
  rw [gradRound_eq_roundByCut g num hd, gradRoundAt_eq_roundByCut]

/-! ### What R15 asks of it -/

section Rounding

variable (g : GradRound)

/-- The value is the integer below, or, of a value that is no integer, the one above. -/
theorem roundByCut_cases (q : ℚ) :
    roundByCut g q = ⌊q⌋ ∨ (Int.fract q ≠ 0 ∧ (cutAt g ⌊q⌋).num ≤ Int.fract q * (cutAt g ⌊q⌋).den ∧
      roundByCut g q = ⌊q⌋ + 1) := by
  unfold roundByCut
  split
  · exact .inl rfl
  · split
    · exact .inl rfl
    · exact .inr ⟨‹_›, not_lt.mp ‹_›, rfl⟩

theorem floor_le_roundByCut (q : ℚ) : ⌊q⌋ ≤ roundByCut g q := by
  rcases roundByCut_cases g q with h | ⟨-, -, h⟩ <;> omega

theorem roundByCut_le_floor_add_one (q : ℚ) : roundByCut g q ≤ ⌊q⌋ + 1 := by
  rcases roundByCut_cases g q with h | ⟨-, -, h⟩ <;> omega

theorem roundByCut_intCast (n : ℤ) : roundByCut g n = n := by simp [roundByCut]

theorem roundByCut_near (q : ℚ) : |(roundByCut g q : ℚ) - q| < 1 := by
  have hfract := Int.self_sub_floor q
  have hlt := Int.fract_lt_one q
  rw [abs_sub_lt_iff]
  rcases roundByCut_cases g q with h | ⟨hne, -, h⟩ <;> rw [h]
  · have := Int.fract_nonneg q
    constructor <;> linarith
  · have := (Int.fract_nonneg q).lt_of_ne' hne
    push_cast
    constructor <;> linarith

/-- From the cut on every fraction goes up. -/
theorem roundByCut_mono : Monotone (roundByCut g) := by
  intro q q' hq
  rcases (Int.floor_le_floor hq).lt_or_eq with hlt | heq
  · calc roundByCut g q ≤ ⌊q⌋ + 1 := roundByCut_le_floor_add_one g q
      _ ≤ ⌊q'⌋ := hlt
      _ ≤ roundByCut g q' := floor_le_roundByCut g q'
  · rcases roundByCut_cases g q with h | ⟨hne, hcut, h⟩
    · rw [h, heq]
      exact floor_le_roundByCut g q'
    · have hfract : Int.fract q ≤ Int.fract q' := by
        rw [Int.fract, Int.fract, heq]
        linarith
      have hne' : Int.fract q' ≠ 0 := (((Int.fract_nonneg q).lt_of_ne' hne).trans_le hfract).ne'
      have hcut' : ((cutAt g ⌊q'⌋).num : ℚ) ≤ Int.fract q' * (cutAt g ⌊q'⌋).den := by
        rw [← heq]
        exact hcut.trans (mul_le_mul_of_nonneg_right hfract (Nat.cast_nonneg _))
      rw [h, heq, roundByCut, if_neg hne', if_neg hcut'.not_gt]

end Rounding

theorem isGradRound_gradRoundAt (g : GradRound) : IsGradRound (gradRoundAt g) := by
  rw [funext (gradRoundAt_eq_roundByCut g)]
  exact ⟨roundByCut_intCast g, roundByCut_near g, roundByCut_mono g⟩

/-- With no cuts listed the rounding is to nearest, halves up. -/
theorem gradRoundAt_nil (q : ℚ) : gradRoundAt [] q = ⌊q + 1 / 2⌋ := by
  have hfract := Int.self_sub_floor q
  have h0 := Int.fract_nonneg q
  have h1 := Int.fract_lt_one q
  rw [gradRoundAt_eq_roundByCut, eq_comm, Int.floor_eq_iff]
  have hcut : cutAt [] ⌊q⌋ = ⟨1, 2⟩ := rfl
  unfold roundByCut
  rw [hcut]
  push_cast
  split
  · constructor <;> linarith
  · split
    · constructor <;> linarith
    · constructor <;> linarith

/-! ### Every rounding R15 admits is a list of cuts -/

section Cuts

variable {r : ℚ → ℤ}

theorem IsGradRound.floor_le (hr : IsGradRound r) (q : ℚ) : ⌊q⌋ ≤ r q := by
  rw [← hr.onInt ⌊q⌋]
  exact hr.mono (Int.floor_le q)

theorem IsGradRound.le_floor_add_one (hr : IsGradRound r) (q : ℚ) : r q ≤ ⌊q⌋ + 1 := by
  rw [← hr.onInt (⌊q⌋ + 1)]
  exact hr.mono (by push_cast; exact (Int.lt_floor_add_one q).le)

/-- The fractions `a / b`, `b` at most `d`, that the rounding takes up from `n`. -/
def goesUp (r : ℚ → ℤ) (d : ℕ) (n : ℤ) : Finset (ℕ × ℕ) :=
  (Finset.range (d + 1) ×ˢ Finset.range (d + 1)).filter fun p => p.1 < p.2 ∧ r (n + (p.1 : ℚ) / p.2) ≠ n

theorem mem_goesUp {d a b : ℕ} {n : ℤ} :
    (a, b) ∈ goesUp r d n ↔ a < b ∧ b ≤ d ∧ r (n + (a : ℚ) / b) ≠ n := by
  simp only [goesUp, Finset.mem_filter, Finset.mem_product, Finset.mem_range, Nat.lt_succ_iff]
  constructor
  · rintro ⟨⟨-, hb⟩, hab, hne⟩
    exact ⟨hab, hb, hne⟩
  · rintro ⟨hab, hb, hne⟩
    exact ⟨⟨by omega, hb⟩, hab, hne⟩

/-- A value whose denominator is at most `d` is its whole part and such a fraction. -/
theorem exists_fraction {q : ℚ} {d : ℕ} (hden : q.den ≤ d) :
    ∃ a b : ℕ, a < b ∧ b ≤ d ∧ Int.fract q = (a : ℚ) / b ∧ q = ⌊q⌋ + (a : ℚ) / b := by
  have hd : (0 : ℤ) < q.den := by exact_mod_cast q.den_pos
  obtain ⟨a, ha⟩ := Int.eq_ofNat_of_zero_le (Int.emod_nonneg q.num hd.ne')
  have hlt : q.num % q.den < q.den := Int.emod_lt_of_pos _ hd
  have hfract : Int.fract q = (a : ℚ) / q.den := by
    have h := emod_eq_fract_mul q.num q.den_pos
    rw [Rat.num_div_den, ha] at h
    rw [eq_div_iff (by exact_mod_cast q.den_ne_zero), ← h]
    rfl
  exact ⟨a, q.den, by omega, hden, hfract, by rw [← hfract, Int.floor_add_fract]⟩

/-- A value that stays down is below every fraction that goes up. -/
theorem IsGradRound.fract_lt (hr : IsGradRound r) {d a b : ℕ} {q : ℚ} (hup : (a, b) ∈ goesUp r d ⌊q⌋)
    (hq : r q = ⌊q⌋) : Int.fract q < (a : ℚ) / b := by
  obtain ⟨-, -, hne⟩ := mem_goesUp.mp hup
  by_contra hge
  have hle : (⌊q⌋ : ℚ) + (a : ℚ) / b ≤ q := by linarith [not_lt.mp hge, Int.self_sub_floor q]
  have hpos : (0 : ℚ) ≤ (a : ℚ) / b := by positivity
  refine hne (le_antisymm ((hr.mono hle).trans hq.le) ?_)
  conv_lhs => rw [← hr.onInt ⌊q⌋]
  exact hr.mono (by linarith)

/-- The least fraction that goes up is the interval's cut; where none does, the cut is 1. -/
theorem IsGradRound.exists_cut (hr : IsGradRound r) (d : ℕ) (n : ℤ) :
    ∃ c : Cut, ∀ q : ℚ, ⌊q⌋ = n → q.den ≤ d → (Int.fract q * c.den < c.num ↔ r q = n) := by
  have hin {q : ℚ} (hden : q.den ≤ d) (hne : r q ≠ ⌊q⌋) : ∃ p ∈ goesUp r d ⌊q⌋, Int.fract q = (p.1 : ℚ) / p.2 := by
    obtain ⟨a, b, hab, hb, hfract, hsplit⟩ := exists_fraction hden
    exact ⟨(a, b), mem_goesUp.mpr ⟨hab, hb, hsplit ▸ hne⟩, hfract⟩
  rcases (goesUp r d n).eq_empty_or_nonempty with hnone | hsome
  · refine ⟨⟨1, 1⟩, fun q hq hden => ⟨fun _ => ?_, fun _ => by simpa using Int.fract_lt_one q⟩⟩
    subst hq
    by_contra hne
    obtain ⟨p, hp, -⟩ := hin hden hne
    simp [hnone] at hp
  · obtain ⟨⟨a, b⟩, hup, hmin⟩ := (goesUp r d n).exists_min_image (fun p => (p.1 : ℚ) / p.2) hsome
    obtain ⟨hab, -, -⟩ := mem_goesUp.mp hup
    have hb : (0 : ℚ) < b := by exact_mod_cast (Nat.zero_le a).trans_lt hab
    refine ⟨⟨a, b⟩, fun q hq hden => ?_⟩
    subst hq
    rw [← lt_div_iff₀ hb]
    refine ⟨fun hlt => ?_, hr.fract_lt hup⟩
    by_contra hne
    obtain ⟨p, hp, hfract⟩ := hin hden hne
    exact (hmin p hp).not_gt (hfract ▸ hlt)

/-- The list of the 255 cuts. -/
theorem IsGradRound.exists_cuts (hr : IsGradRound r) :
    ∃ g : GradRound, ∀ q : ℚ, 0 ≤ q → q ≤ 255 → q.den ≤ 255 → gradRoundAt g q = r q := by
  choose cut hcut using hr.exists_cut 255
  refine ⟨(List.range 255).map fun n : ℕ => cut n, fun q h0 h255 hden => ?_⟩
  rw [gradRoundAt_eq_roundByCut]
  have hlow := hr.floor_le q
  have hhigh := hr.le_floor_add_one q
  by_cases hz : Int.fract q = 0
  · have hq : q = ⌊q⌋ := by rw [← sub_eq_zero]; exact hz
    rw [roundByCut, if_pos hz]
    conv_rhs => rw [hq, hr.onInt]
  · have hfloor0 : 0 ≤ ⌊q⌋ := Int.floor_nonneg.mpr h0
    have hfloor : ⌊q⌋ < 255 := by
      rw [Int.floor_lt]
      refine lt_of_le_of_ne h255 fun he => hz ?_
      rw [he]
      exact Int.fract_ofNat 255
    have hat : cutAt ((List.range 255).map fun n : ℕ => cut n) ⌊q⌋ = cut ⌊q⌋ := by
      have hn : ⌊q⌋.toNat < 255 := by omega
      rw [cutAt, List.getD_eq_getElem?_getD, List.getElem?_map, List.getElem?_range hn, Option.map_some,
        Option.getD_some, Int.toNat_of_nonneg hfloor0]
    rw [roundByCut, if_neg hz, hat]
    split
    · next hlt => exact ((hcut ⌊q⌋ q rfl hden).mp hlt).symm
    · next hge =>
      have hne : r q ≠ ⌊q⌋ := fun he => hge ((hcut ⌊q⌋ q rfl hden).mpr he)
      omega

end Cuts

/-! ### A channel of a gradient (R153) -/

/-- The exact value of a channel at step `i` of `n`. -/
def channelAt (f t : Byte) (i n : ℕ) : ℚ := (f.toNat : ℚ) + ((t.toNat : ℚ) - f.toNat) * i / (n - 1)

section Channel

variable {f t : Byte} {i j n : ℕ}

theorem channelAt_zero (f t : Byte) (n : ℕ) : channelAt f t 0 n = f.toNat := by simp [channelAt]

theorem channelAt_last (hn : 2 ≤ n) : channelAt f t (n - 1) n = t.toNat := by
  have hd : ((n : ℚ) - 1) ≠ 0 := by
    have : (2 : ℚ) ≤ n := by exact_mod_cast hn
    linarith
  rw [channelAt, Nat.cast_pred (by omega), mul_div_assoc, div_self hd]
  ring

theorem channelAt_mono (hn : 2 ≤ n) (hft : f.toNat ≤ t.toNat) (hij : i ≤ j) :
    channelAt f t i n ≤ channelAt f t j n := by
  have hn' : (2 : ℚ) ≤ n := by exact_mod_cast hn
  have hft' : (f.toNat : ℚ) ≤ t.toNat := by exact_mod_cast hft
  have hij' : (i : ℚ) ≤ j := by exact_mod_cast hij
  unfold channelAt
  gcongr
  linarith

/-- The same gradient, run from its other end. -/
theorem channelAt_swap (hn : 2 ≤ n) (hi : i < n) : channelAt f t i n = channelAt t f (n - 1 - i) n := by
  have hd : ((n : ℚ) - 1) ≠ 0 := by
    have : (2 : ℚ) ≤ n := by exact_mod_cast hn
    linarith
  unfold channelAt
  rw [Nat.cast_sub (by omega), Nat.cast_pred (by omega)]
  field_simp
  ring

/-- A step's value lies between the two ends. -/
theorem channelAt_bounds (hn : 2 ≤ n) (hi : i < n) :
    (min f.toNat t.toNat : ℕ) ≤ channelAt f t i n ∧ channelAt f t i n ≤ (max f.toNat t.toNat : ℕ) := by
  rcases Nat.le_total f.toNat t.toNat with h | h
  · rw [min_eq_left h, max_eq_right h, ← channelAt_zero f t n, ← channelAt_last (f := f) (t := t) hn]
    exact ⟨channelAt_mono hn h (Nat.zero_le i), channelAt_mono hn h (by omega)⟩
  · rw [min_eq_right h, max_eq_left h, channelAt_swap hn hi, ← channelAt_zero t f n,
      ← channelAt_last (f := t) (t := f) hn]
    exact ⟨channelAt_mono hn h (Nat.zero_le _), channelAt_mono hn h (by omega)⟩

theorem gradRoundAt_natCast (g : GradRound) (n : ℕ) : gradRoundAt g (n : ℚ) = n :=
  (isGradRound_gradRoundAt g).onInt n

/-- The channel's byte is the rounded exact value, which lies between the two ends (R153). -/
theorem toNat_lerp (g : GradRound) (hn : 2 ≤ n) (hi : i < n) :
    ((lerp g f t i n).toNat : ℤ) = gradRoundAt g (channelAt f t i n) := by
  have hround : gradRound g ((f.toNat : Int) * ((n - 1 : Nat) : Int) + ((t.toNat : Int) - f.toNat) * i) (n - 1) =
      gradRoundAt g (channelAt f t i n) := by
    rw [gradRound_eq_gradRoundAt g _ (by omega)]
    congr 1
    have hd : ((n : ℚ) - 1) ≠ 0 := by
      have : (2 : ℚ) ≤ n := by exact_mod_cast hn
      linarith
    unfold channelAt
    push_cast [Nat.cast_pred (show 0 < n by omega)]
    field_simp
  obtain ⟨hlow, hhigh⟩ := channelAt_bounds (f := f) (t := t) hn hi
  have hl := (isGradRound_gradRoundAt g).mono hlow
  have hh := (isGradRound_gradRoundAt g).mono hhigh
  rw [gradRoundAt_natCast] at hl hh
  have hf := f.isLt
  have ht := t.isLt
  rw [lerp, hround]
  simp only [BitVec.toNat_ofInt]
  omega

theorem lerp_first (g : GradRound) (hn : 2 ≤ n) : lerp g f t 0 n = f := by
  have h := toNat_lerp (f := f) (t := t) g hn (show 0 < n by omega)
  rw [channelAt_zero, gradRoundAt_natCast] at h
  exact BitVec.eq_of_toNat_eq (by exact_mod_cast h)

theorem lerp_last (g : GradRound) (hn : 2 ≤ n) : lerp g f t (n - 1) n = t := by
  have h := toNat_lerp (f := f) (t := t) g hn (show n - 1 < n by omega)
  rw [channelAt_last hn, gradRoundAt_natCast] at h
  exact BitVec.eq_of_toNat_eq (by exact_mod_cast h)

theorem lerp_mono (g : GradRound) (hn : 2 ≤ n) (hft : f.toNat ≤ t.toNat) (hij : i ≤ j) (hj : j < n) :
    (lerp g f t i n).toNat ≤ (lerp g f t j n).toNat := by
  have h := (isGradRound_gradRoundAt g).mono (channelAt_mono hn hft hij)
  rw [← toNat_lerp g hn (by omega), ← toNat_lerp g hn hj] at h
  exact_mod_cast h

theorem lerp_antitone (g : GradRound) (hn : 2 ≤ n) (htf : t.toNat ≤ f.toNat) (hij : i ≤ j) (hj : j < n) :
    (lerp g f t j n).toNat ≤ (lerp g f t i n).toNat := by
  have hi : i < n := by omega
  have h := (isGradRound_gradRoundAt g).mono
    (channelAt_mono hn htf (show n - 1 - j ≤ n - 1 - i by omega))
  rw [← channelAt_swap hn hj, ← channelAt_swap hn hi, ← toNat_lerp g hn hj, ← toNat_lerp g hn hi] at h
  exact_mod_cast h

end Channel

/-! ### What SETGRAD does (R154) -/

section Setgrad

variable {s : State} {first : Byte} {count : BitVec 16}

theorem exec_setgrad (h : s.canPaint) (hr : rangeCheck first count = .ok ()) (c0 c1 : RGB) :
    exec (.setgrad first count c0 c1) s = .next
      { s with
        video := s.video.paintPalette
          (rangeEntries first count (gradEntry s.cfg.gradRound c0 c1 count.toNat)) } := by
  unfold exec
  exact videoCommand_ok h.1 (State.canPaint_accepted h) (by rw [hr])

theorem exec_setgrad_badRange {k : Cause} (h : s.canPaint) (hr : rangeCheck first count = .error k) (c0 c1 : RGB) :
    exec (.setgrad first count c0 c1) s = .next (s.videoFault k) := by
  unfold exec
  exact videoCommand_error h.1 (State.canPaint_accepted h) (by rw [hr])

end Setgrad

theorem gradEntry_of_ne_one {count : ℕ} (h : count ≠ 1) (g : GradRound) (c0 c1 : RGB) (i : ℕ) :
    gradEntry g c0 c1 count i =
      ⟨lerp g c0.r c1.r i count, lerp g c0.g c1.g i count, lerp g c0.b c1.b i count⟩ := if_neg h

end Sys2Proof.Machine

namespace Sys2Proof.Proofs

open Sys2Proof Sys2Proof.Machine

/-- Settles O44: an entry of the range is read from its source's source, which is itself. -/
theorem rotationIsUndone : Obligations.RotationIsUndone := by
  intro s first reverse count hp hc hr
  have hok := rangeCheck_inside hc hr
  refine ⟨_, _, exec_rotpal hp hok reverse, exec_rotpal (State.canPaint_paintPalette hp _) hok (!reverse), ?_,
    fun k => ?_⟩
  · simp only [VideoState.paintPalette, VideoState.setPalBack_setPalBack]
    exact s.onlyBackEntries_setPalBack _
  · by_cases hk : first.toNat ≤ k ∧ k < first.toNat + count.toNat
    · obtain ⟨j, rfl⟩ := Nat.exists_eq_add_of_le hk.1
      have hj : j < count.toNat := by omega
      rw [VideoState.entry_paintRange_inside hr hj, VideoState.entry_paintRange_inside hr (rotSource_lt hj),
        rotSource_rotSource_not hj]
    · rw [VideoState.entry_paintRange_outside hk, VideoState.entry_paintRange_outside hk]

/-- Settles O41: the range check gives the two faults; past it each channel's byte is the rounded exact value. -/
theorem setgradWritesTheGradient : Obligations.SetgradWritesTheGradient := by
  intro s first count c0 c1 hp
  refine ⟨fun hc => exec_setgrad_badRange hp (rangeCheck_tooMany hc first) c0 c1,
    fun hc hr => exec_setgrad_badRange hp (rangeCheck_pastEnd hc hr) c0 c1, fun hc hr => ?_⟩
  refine ⟨_, exec_setgrad hp (rangeCheck_inside hc hr) c0 c1, s.onlyBackEntries_setPalBack _,
    fun k hk => VideoState.entry_paintRange_outside hk _ _, fun h1 => ?_, fun hn i hi => ?_⟩
  · subst h1
    exact (VideoState.entry_paintRange_inside (k := 0) hr (by decide) _ _).trans (if_pos rfl)
  · have hentry := (VideoState.entry_paintRange_inside hr hi s.video _).trans
      (gradEntry_of_ne_one hn.ne' s.cfg.gradRound c0 c1 i)
    have hchannel (f t : Byte) := toNat_lerp (f := f) (t := t) s.cfg.gradRound hn hi
    dsimp only
    rw [hentry]
    refine ⟨hchannel _ _, hchannel _ _, hchannel _ _, fun hg => ?_⟩
    have hdefault (f t : Byte) := (hchannel f t).trans (by rw [hg, gradRoundAt_nil])
    exact ⟨hdefault _ _, hdefault _ _, hdefault _ _⟩

/-- Settles O42: the parameter is read as a rounding by cuts, and a gradient's channel as the rounded exact value. -/
theorem gradientShape : Obligations.GradientShape := by
  refine ⟨isGradRound_gradRoundAt, gradRoundAt_nil, fun r hr => hr.exists_cuts, fun g f t n hn => ⟨?_, ?_, ?_⟩⟩
  · exact lerp_first g hn
  · exact lerp_last g hn
  · intro i j hij hj
    have hi : i < n := by omega
    refine ⟨fun hft => ⟨lerp_mono g hn hft hij hj, ?_, ?_⟩, fun htf => ⟨lerp_antitone g hn htf hij hj, ?_, ?_⟩⟩
    · simpa only [lerp_first g hn] using lerp_mono g hn hft (Nat.zero_le i) hi
    · simpa only [lerp_last g hn] using lerp_mono g hn hft (Nat.le_sub_one_of_lt hj) (by omega : n - 1 < n)
    · simpa only [lerp_first g hn] using lerp_antitone g hn htf (Nat.zero_le i) hi
    · simpa only [lerp_last g hn] using lerp_antitone g hn htf (Nat.le_sub_one_of_lt hj) (by omega : n - 1 < n)

end Sys2Proof.Proofs
end
